-- ==== Sys2Proof/Word.lean ====
section
/-! DEFINITION. The widths of the CDP1802 and of the CHIP-8 level (00_scope R8, R9). -/

namespace Sys2Proof

/-- A byte: `DATAW` = 8 bits. -/
abbrev Byte := BitVec 8

/-- A scratchpad register, an address, a 16-bit CHIP-8 opcode: `REGW` = `ADDRW` = 16 bits. -/
abbrev Word := BitVec 16

/-- A register number, `P`, `X`, `I`, `N`: 4 bits. -/
abbrev Nib := BitVec 4

/-- A port number, the low three bits of an I/O opcode (20_memory R55). -/
abbrev Port := BitVec 3

/-- A CHIP-8 address (`I8`, `PC8`, a stack entry): the widest of the three widths of 10_state R41, R42. -/
abbrev Addr8 := BitVec 24

end Sys2Proof
end

