-- ==== Sys2Proof/Config.lean ====
section
/-! DEFINITION. What is fixed for a machine: the parameters of 00_scope R8, the quirk configuration
(10_state R48), and the free values, each an opaque constant without a body. -/

namespace Sys2Proof

/-! ## Closed sets of names -/

/-- The two engines, "selected once at construction via configuration" (48_dispatch R217). -/
inductive Engine where
  | hardware
  | fastPath
  deriving DecidableEq, Repr, Inhabited

/-- The execution modes (10_state R46). -/
inductive ExecMode where
  | running
  | paused
  | step
  | stepOver
  | stepOut
  deriving DecidableEq, Repr, Inhabited

/-- The CPU state (10_state R47). -/
inductive CpuState where
  | normal
  | waiting
  | error
  deriving DecidableEq, Repr, Inhabited

/-- The kind of a memory access. -/
inductive AccessKind where
  | read
  | write
  deriving DecidableEq, Repr, Inhabited

/-- The fault record (10_state R33) with the recorded values of 60_exceptions R250 in place of the message text (log 12). -/
inductive FaultInfo where
  | stackOverflow
  | stackUnderflow
  | invalidOpcode (op : Word)
  | hardwareFault (kind : AccessKind) (addr : Word)
  deriving DecidableEq, Repr, Inhabited

/-- `STACK_POLICY` (48_dispatch R222). -/
inductive StackPolicy where
  | error
  | cyclic
  deriving DecidableEq, Repr, Inhabited

/-- `SHIFT_SOURCE` (48_dispatch R225). -/
inductive ShiftSource where
  | vx
  | vy
  deriving DecidableEq, Repr, Inhabited

/-- `LOADSTORE_I` (48_dispatch R227). -/
inductive LoadStoreI where
  | unchanged
  | plusX
  | plusXPlus1
  deriving DecidableEq, Repr, Inhabited

/-- `ROM_WRITE_POLICY` (20_memory R51). -/
inductive RomWritePolicy where
  | fault
  | ignore
  deriving DecidableEq, Repr, Inhabited

/-- The widths a CHIP-8 address can have, per variant (10_state R41, R42; 20_memory R67). -/
inductive AddrWidth where
  | bits12
  | bits16
  | bits24
  deriving DecidableEq, Repr, Inhabited

/-- The width in bits. -/
def AddrWidth.bits : AddrWidth → Nat
  | .bits12 => 12
  | .bits16 => 16
  | .bits24 => 24

/-! ## The dispatch table's vocabulary (48_dispatch R210, R216) -/

/-- The handlers an `on` call can install: those of the families the source names, `draw` among them, and the
parameter handlers outside the spec, told apart by a number (48_dispatch R220). -/
inductive Handler where
  | or
  | and
  | xor
  | shiftRight
  | shiftLeft
  | draw
  | keyWait
  | store
  | load
  | call
  | ret
  | param (k : Nat)
  | invalid
  deriving DecidableEq, Repr, Inhabited

/-- One call `on(mask, pattern, handler)` (48_dispatch R212). -/
structure OnCall where
  mask    : Word
  pattern : Word
  handler : Handler
  deriving DecidableEq, Repr, Inhabited

/-! ## Where the shadow state is read from (48_dispatch R239, R240; log 16) -/

/-- The CDP1802's registers beside the scratchpad (10_state R23 to R30). -/
inductive CpuField where
  | d
  | df
  | p
  | x
  | i
  | n
  | t
  | ie
  | q
  deriving DecidableEq, Repr, Inhabited

/-- What one entry of `SHADOW_MAP` designates, as an integer: a scratchpad register, by its number or by a designated
one (`R[X]` is `regAt (cpu x)`), another register of the CDP1802, a byte of RAM, a number, sums, differences, products,
quotients and remainders of such, or any other function of the CDP1802's registers and RAM, told apart by a number. -/
inductive ShadowExpr where
  | const (k : Nat)
  | reg (n : Nib)
  | regAt (index : ShadowExpr)
  | cpu (f : CpuField)
  | ram (index : ShadowExpr)
  | add (a b : ShadowExpr)
  | sub (a b : ShadowExpr)
  | mul (a b : ShadowExpr)
  | div (a b : ShadowExpr)
  | mod (a b : ShadowExpr)
  | param (k : Nat)
  deriving DecidableEq, Repr, Inhabited

/-- The high byte of a 16-bit value. -/
def ShadowExpr.high (e : ShadowExpr) : ShadowExpr := .div e (.const 256)

/-- The low byte of a 16-bit value. -/
def ShadowExpr.low (e : ShadowExpr) : ShadowExpr := .mod e (.const 256)

/-- `e & 0xFF00`: the page of a 16-bit value. -/
def ShadowExpr.page (e : ShadowExpr) : ShadowExpr := .sub e e.low

/-- The 16-bit value of two bytes of RAM. -/
def ShadowExpr.ramPair (hi lo : ShadowExpr) : ShadowExpr := .add (.mul (.ram hi) (.const 256)) (.ram lo)

/-- `SHADOW_MAP`: one entry for every shadow value. `stackCount` says how many entries `S[0]`, `S[1]`, … are designated;
the others keep their values (log 18). -/
structure ShadowMap where
  v          : Vector ShadowExpr 16
  i8         : ShadowExpr
  pc8        : ShadowExpr
  dt         : ShadowExpr
  st         : ShadowExpr
  sp8        : ShadowExpr
  stack      : Vector ShadowExpr 16
  stackCount : ShadowExpr
  deriving DecidableEq, Repr, Inhabited

/-- How `reset()` makes its fast-forward (70_reset R307, log 42): by running the CDP1802 until the stop test holds, or by
taking the post-condition as the definition of the state it ends in. -/
inductive FastForwardForm where
  | run
  | postCondition
  deriving DecidableEq, Repr, Inhabited

/-! ## The configuration of one instance -/

/-- `QuirkConfig` and the parameters of 00_scope R8 that have alternatives (10_state R48, log 1). -/
structure QuirkConfig where
  engine         : Engine
  stackPolicy    : StackPolicy
  shiftSource    : ShiftSource
  vfResetOnLogic : Bool
  loadStoreI     : LoadStoreI
  /-- `IW`, the width of `I8`. -/
  iw             : AddrWidth
  /-- The variant's address space: `MEM_SIZE` = 2 ^ bits, also the width of `PC8`. -/
  space          : AddrWidth
  startAddr      : Addr8
  romWrite       : RomWritePolicy
  /-- `BOOT_LATCH`: is the latch present. -/
  hasBootLatch   : Bool
  /-- `IPF`, a positive integer; `none` is unconstrained (48_dispatch R242). -/
  ipf            : Option { k : Nat // 0 < k }
  /-- Does the tick of a frame fire when the machine pauses inside it (93_implementation_defined U19, log 10). -/
  tickOnPause    : Bool
  /-- How the fast-forward of `reset()` is made (70_reset R307, log 42). -/
  fastForward    : FastForwardForm
  /-- The `on` calls that build the dispatch table, in the order made. -/
  table          : List OnCall
  shadow         : ShadowMap
  deriving DecidableEq, Repr, Inhabited

/-- `MEM_SIZE` (20_memory R67). -/
def QuirkConfig.memSize (c : QuirkConfig) : Nat := 2 ^ c.space.bits

/-! ## What a parameter handler sees and does (48_dispatch R220, log 19) -/

/-- The CHIP-8-level state a handler reads (48_dispatch R210: 10_state R40 to R47 and the memory). -/
structure HandlerView where
  v        : Vector Byte 16
  i8       : Addr8
  pc8      : Addr8
  stack    : Vector Addr8 16
  sp8      : Nat
  dt       : Byte
  st       : Byte
  cycles8  : Nat
  frames8  : Nat
  clears8  : Nat
  execMode : ExecMode
  cpuState : CpuState
  mem      : List (Nat × Byte)
  deriving DecidableEq, Repr, Inhabited

/-- What a handler answers: new values, and the memory bytes it writes in order; or a fault it raises. -/
structure HandlerEffect where
  v        : Vector Byte 16
  i8       : Addr8
  pc8      : Addr8
  stack    : Vector Addr8 16
  sp8      : Nat
  dt       : Byte
  st       : Byte
  cycles8  : Nat
  frames8  : Nat
  clears8  : Nat
  execMode : ExecMode
  waiting  : Bool
  writes   : List (Nat × Byte)
  raised   : Option FaultInfo
  deriving DecidableEq, Repr, Inhabited

/-- What an entry of an open `SHADOW_MAP` may read: the RAM array and all of the CDP1802's registers (48_dispatch R239;
10_state R21 to R30). -/
structure ShadowView where
  r   : Vector Word 16
  d   : Byte
  df  : Bool
  p   : Nib
  x   : Nib
  i   : Nib
  n   : Nib
  t   : Byte
  ie  : Bool
  q   : Bool
  ram : List (Nat × Byte)
  deriving DecidableEq, Repr, Inhabited

/-- What the fast-forward's post-condition leaves unconstrained (70_reset R307, log 42): the CDP1802's registers, the
machine cycles it took, the display bit and the latches. -/
structure ReadyValues where
  r              : Vector Word 16
  d              : Byte
  df             : Bool
  p              : Nib
  x              : Nib
  i              : Nib
  n              : Nib
  t              : Byte
  ie             : Bool
  q              : Bool
  idle           : Bool
  cycles         : Nat
  displayEnabled : Bool
  bootLatch      : Bool
  keyLatch       : Nib
  deriving DecidableEq, Repr, Inhabited

namespace Config

/-! ## Values fixed by the spec (00_scope R8) -/

/-- `RAM_BASE`. -/
def ramBase : Nat := 0x0000
/-- `RAM_SIZE`. -/
def ramSize : Nat := 4096
/-- `ROM_BASE`. -/
def romBase : Nat := 0x8000
/-- `ROM_SIZE`. -/
def romSize : Nat := 512
/-- `REENTRY_ADDR`. -/
def reentryAddr : Word := 0x001B#16
/-- `LOAD_OFFSET`. -/
def loadOffset : Nat := 0x200
/-- `CYCLES_PER_LINE`. -/
def cyclesPerLine : Nat := 14
/-- `LINES_PER_FRAME`. -/
def linesPerFrame : Nat := 262
/-- `CYCLES_PER_FRAME`. -/
def cyclesPerFrame : Nat := 3668
/-- `DMA_START`. -/
def dmaStart : Nat := 1
/-- `DMA_LEN`. -/
def dmaLen : Nat := 8
/-- `STACK_DEPTH`. -/
def stackDepth : Nat := 16
/-- `EF2_SOURCE` and `EF4_SOURCE` (10_state R36). -/
def ef2Source : Bool := false
/-- See `ef2Source`. -/
def ef4Source : Bool := false

/-! ## Open parameters and free values. None has a body, so no proof can see a value. -/

/-- `ROM_MONITOR` by offset into the ROM window (log 7). -/
opaque romMonitor : Nat → Byte

/-- The bytes `reset()` puts at 0x000..0x1FF: `INTERPRETER_IMAGE` padded with what follows it (log 6). -/
opaque resetImage : Nat → Byte

/-- `INP_VALUE(port, cycle)`, one per draw (47_io R204, log 8). -/
opaque inpValue : (draw : Nat) → (port : Port) → (cycle : Nat) → Byte

/-- `DMA_IN_VALUE(cycle)`, one per draw (60_exceptions R262, log 8). -/
opaque dmaInValue : (draw : Nat) → (cycle : Nat) → Byte

/-- The host's `isKeyDown` (10_state R36, log 9). -/
opaque isKeyDown : (draw : Nat) → (cycle : Nat) → (key : Nib) → Bool

/-- The host's `getKeyPressed` (48_dispatch R228, log 9). That a key is a number 0..15 is the model's choice (log 40). -/
opaque getKeyPressed : (draw : Nat) → Option Nib

/-- The number of `Tick8` in a frame when `IPF` is unconstrained (48_dispatch R242, log 10). -/
opaque frameBudget : (draw : Nat) → Nat

/-- A shadow byte whose designated index lies outside the RAM array (log 17). -/
opaque shadowOutsideRam : (draw : Nat) → (index : Int) → Byte

/-- A shadow depth where the value the map designates is negative (log 17). -/
opaque shadowDepth : (draw : Nat) → (value : Int) → Nat

/-- The entries `ShadowExpr.param k` of an open `SHADOW_MAP`, as functions of all the CDP1802's registers and RAM
(48_dispatch R239, R240, log 16). -/
opaque shadowParam : (k : Nat) → ShadowView → Int

/-- What the fast-forward leaves unconstrained, one per draw (70_reset R307, log 42). -/
opaque readyValues : (draw : Nat) → ReadyValues

/-- The handlers the spec leaves as parameters: `Handler.draw` and every `Handler.param k` (48_dispatch R220, R229,
log 19, log 20). The draw stands for the host's answers and the random source. -/
opaque handler : (h : Handler) → (draw : Nat) → (op : Word) → HandlerView → HandlerEffect

end Config

end Sys2Proof
end

