-- ==== Sys2Proof/Syntax.lean ====
section
/-! DEFINITION. The instructions: one constructor for every mnemonic of spec/opcode_table.json. The rows of LDN, OUT and
INP that differ only in a register or port number are one constructor with that number as operand. Operand names follow
30_encoding R71, R72 and 48_dispatch R215. -/

namespace Sys2Proof

inductive Instr where
  -- register operations (40_register_ops)
  | inc (n : Nib)
  | dec (n : Nib)
  | irx
  | glo (n : Nib)
  | ghi (n : Nib)
  | plo (n : Nib)
  | phi (n : Nib)
  -- memory reference (41_memory_reference)
  | ldn (n : Nib)
  | lda (n : Nib)
  | ldx
  | ldxa
  | ldi (imm : Byte)
  | str (n : Nib)
  | stxd
  -- logic and shift (42_logic_shift)
  | or
  | ori (imm : Byte)
  | xor
  | xri (imm : Byte)
  | and
  | ani (imm : Byte)
  | shr
  | shrc
  | shl
  | shlc
  -- arithmetic (43_arithmetic)
  | add
  | adi (imm : Byte)
  | adc
  | adci (imm : Byte)
  | sd
  | sdi (imm : Byte)
  | sdb
  | sdbi (imm : Byte)
  | sm
  | smi (imm : Byte)
  | smb
  | smbi (imm : Byte)
  -- short branches (44_short_branch)
  | br (addr : Byte)
  | bq (addr : Byte)
  | bz (addr : Byte)
  | bdf (addr : Byte)
  | b1 (addr : Byte)
  | b2 (addr : Byte)
  | b3 (addr : Byte)
  | b4 (addr : Byte)
  /-- NBR: the second byte is never read (30_encoding R71). It is kept so that no bit of the encoding is lost. -/
  | nbr (skipped : Byte)
  | bnq (addr : Byte)
  | bnz (addr : Byte)
  | bnf (addr : Byte)
  | bn1 (addr : Byte)
  | bn2 (addr : Byte)
  | bn3 (addr : Byte)
  | bn4 (addr : Byte)
  -- long branches, long skips, NOP (45_long_branch_skip)
  | lbr (addr : Word)
  | lbq (addr : Word)
  | lbz (addr : Word)
  | lbdf (addr : Word)
  | lbnq (addr : Word)
  | lbnz (addr : Word)
  | lbnf (addr : Word)
  | lskp
  | lsnq
  | lsnz
  | lsnf
  | lsie
  | lsq
  | lsz
  | lsdf
  | nop
  -- control (46_control)
  | idl
  | sep (n : Nib)
  | sex (n : Nib)
  | seq
  | req
  | sav
  | mark
  | ret
  | dis
  -- input and output, the reserved opcode (47_io)
  | out (port : Port)
  | inp (port : Port)
  | reserved
  -- CHIP-8 handlers (48_dispatch)
  | c8Or (x y : Nib)
  | c8And (x y : Nib)
  | c8Xor (x y : Nib)
  | c8ShiftRight (x y : Nib)
  | c8ShiftLeft (x y : Nib)
  | c8Draw (x y n : Nib)
  | c8KeyWait (x : Nib)
  | c8Store (x : Nib)
  | c8Load (x : Nib)
  | c8Call (nnn : BitVec 12)
  | c8Return
  | c8Unmapped (op : Word)
  deriving DecidableEq, Repr, Inhabited

/-- The engine an instruction belongs to: the CDP1802 runs bytes, the fast path 16-bit opcodes (48_dispatch R217). -/
def Instr.engine : Instr → Engine
  | .c8Or _ _ | .c8And _ _ | .c8Xor _ _ | .c8ShiftRight _ _ | .c8ShiftLeft _ _ | .c8Draw _ _ _ | .c8KeyWait _
  | .c8Store _ | .c8Load _ | .c8Call _ | .c8Return | .c8Unmapped _ => .fastPath
  | .inc _ | .dec _ | .irx | .glo _ | .ghi _ | .plo _ | .phi _ | .ldn _ | .lda _ | .ldx | .ldxa | .ldi _ | .str _
  | .stxd | .or | .ori _ | .xor | .xri _ | .and | .ani _ | .shr | .shrc | .shl | .shlc | .add | .adi _ | .adc
  | .adci _ | .sd | .sdi _ | .sdb | .sdbi _ | .sm | .smi _ | .smb | .smbi _ | .br _ | .bq _ | .bz _ | .bdf _ | .b1 _
  | .b2 _ | .b3 _ | .b4 _ | .nbr _ | .bnq _ | .bnz _ | .bnf _ | .bn1 _ | .bn2 _ | .bn3 _ | .bn4 _ | .lbr _ | .lbq _
  | .lbz _ | .lbdf _ | .lbnq _ | .lbnz _ | .lbnf _ | .lskp | .lsnq | .lsnz | .lsnf | .lsie | .lsq | .lsz | .lsdf
  | .nop | .idl | .sep _ | .sex _ | .seq | .req | .sav | .mark | .ret | .dis | .out _ | .inp _ | .reserved => .hardware

end Sys2Proof
end

