-- ==== Sys2Proof/Decode.lean ====
section
/-! DEFINITION. Decoding, total on any bytes, and the encoder, both from the tables of 30_encoding R71, R73, R74 and
48_dispatch R215, R216; the byte and nibble helpers; the dispatch table's lookup. -/

namespace Sys2Proof

/-! ## Bytes, nibbles, words (00_scope R9; byte order 20_memory R56) -/

/-- `w[15:8]`. -/
def hiByte (w : Word) : Byte := w.extractLsb' 8 8

/-- `w[7:0]`. -/
def loByte (w : Word) : Byte := w.extractLsb' 0 8

/-- `hi : lo`. -/
def joinBytes (hi lo : Byte) : Word := hi ++ lo

/-- `b[7:4]`. -/
def hiNib (b : Byte) : Nib := b.extractLsb' 4 4

/-- `b[3:0]`. -/
def loNib (b : Byte) : Nib := b.extractLsb' 0 4

/-- `hi : lo`. -/
def joinNibs (hi lo : Nib) : Byte := hi ++ lo

/-! ## The CDP1802 opcode map (30_encoding R74) -/

/-- What follows an opcode byte: nothing, one operand byte, or two (30_encoding R70, R71). -/
inductive Form where
  | alone (i : Instr)
  | withByte (mk : Byte → Instr)
  | withWord (mk : Word → Instr)

/-- Row 3: the short branches by condition code. -/
def shortBranchForm (n : Nib) : Form :=
  match n.toNat with
  | 0x0 => .withByte .br
  | 0x1 => .withByte .bq
  | 0x2 => .withByte .bz
  | 0x3 => .withByte .bdf
  | 0x4 => .withByte .b1
  | 0x5 => .withByte .b2
  | 0x6 => .withByte .b3
  | 0x7 => .withByte .b4
  | 0x8 => .withByte .nbr
  | 0x9 => .withByte .bnq
  | 0xA => .withByte .bnz
  | 0xB => .withByte .bnf
  | 0xC => .withByte .bn1
  | 0xD => .withByte .bn2
  | 0xE => .withByte .bn3
  | _   => .withByte .bn4

/-- Row 6: IRX, the ports, the reserved opcode. -/
def inOutForm (n : Nib) : Form :=
  match n.toNat with
  | 0x0 => .alone .irx
  | 0x8 => .alone .reserved
  | k   => if k < 8 then .alone (.out (n.extractLsb' 0 3)) else .alone (.inp (n.extractLsb' 0 3))

/-- Row 7. -/
def row7Form (n : Nib) : Form :=
  match n.toNat with
  | 0x0 => .alone .ret
  | 0x1 => .alone .dis
  | 0x2 => .alone .ldxa
  | 0x3 => .alone .stxd
  | 0x4 => .alone .adc
  | 0x5 => .alone .sdb
  | 0x6 => .alone .shrc
  | 0x7 => .alone .smb
  | 0x8 => .alone .sav
  | 0x9 => .alone .mark
  | 0xA => .alone .req
  | 0xB => .alone .seq
  | 0xC => .withByte .adci
  | 0xD => .withByte .sdbi
  | 0xE => .alone .shlc
  | _   => .withByte .smbi

/-- Row C: long branches, long skips, NOP. -/
def rowCForm (n : Nib) : Form :=
  match n.toNat with
  | 0x0 => .withWord .lbr
  | 0x1 => .withWord .lbq
  | 0x2 => .withWord .lbz
  | 0x3 => .withWord .lbdf
  | 0x4 => .alone .nop
  | 0x5 => .alone .lsnq
  | 0x6 => .alone .lsnz
  | 0x7 => .alone .lsnf
  | 0x8 => .alone .lskp
  | 0x9 => .withWord .lbnq
  | 0xA => .withWord .lbnz
  | 0xB => .withWord .lbnf
  | 0xC => .alone .lsie
  | 0xD => .alone .lsq
  | 0xE => .alone .lsz
  | _   => .alone .lsdf

/-- Row F. -/
def rowFForm (n : Nib) : Form :=
  match n.toNat with
  | 0x0 => .alone .ldx
  | 0x1 => .alone .or
  | 0x2 => .alone .and
  | 0x3 => .alone .xor
  | 0x4 => .alone .add
  | 0x5 => .alone .sd
  | 0x6 => .alone .shr
  | 0x7 => .alone .sm
  | 0x8 => .withByte .ldi
  | 0x9 => .withByte .ori
  | 0xA => .withByte .ani
  | 0xB => .withByte .xri
  | 0xC => .withByte .adi
  | 0xD => .withByte .sdi
  | 0xE => .alone .shl
  | _   => .withByte .smi

/-- The whole map: every one of the 256 opcode bytes has exactly one entry (30_encoding R74, R80). -/
def formOf (op : Byte) : Form :=
  let n := loNib op
  match (hiNib op).toNat with
  | 0x0 => if n = 0 then .alone .idl else .alone (.ldn n)
  | 0x1 => .alone (.inc n)
  | 0x2 => .alone (.dec n)
  | 0x3 => shortBranchForm n
  | 0x4 => .alone (.lda n)
  | 0x5 => .alone (.str n)
  | 0x6 => inOutForm n
  | 0x7 => row7Form n
  | 0x8 => .alone (.glo n)
  | 0x9 => .alone (.ghi n)
  | 0xA => .alone (.plo n)
  | 0xB => .alone (.phi n)
  | 0xC => rowCForm n
  | 0xD => .alone (.sep n)
  | 0xE => .alone (.sex n)
  | _   => rowFForm n

/-- Why bytes are not an instruction: there is none, or the operand bytes the opcode needs are missing. -/
inductive DecodeError where
  | noBytes
  | missingOperand
  deriving DecidableEq, Repr

/-- Decode the CDP1802 instruction at the head of a byte list; the rest of the list is handed back. -/
def decode1802 (bytes : List Byte) : Except DecodeError (Instr × List Byte) :=
  match bytes with
  | [] => .error .noBytes
  | op :: rest =>
    match formOf op, rest with
    | .alone i, _ => .ok (i, rest)
    | .withByte mk, b :: rest => .ok (mk b, rest)
    | .withWord mk, hi :: lo :: rest => .ok (mk (joinBytes hi lo), rest)
    | .withByte _, [] => .error .missingOperand
    | .withWord _, [] => .error .missingOperand
    | .withWord _, [_] => .error .missingOperand

/-- The instruction of three bytes in a row, of which it uses as many as its opcode says. -/
def instrOf (op b1 b2 : Byte) : Instr :=
  match formOf op with
  | .alone i => i
  | .withByte mk => mk b1
  | .withWord mk => mk (joinBytes b1 b2)

/-- `Length(op)` (30_encoding R73). -/
def opcodeLength (op : Byte) : Nat :=
  match formOf op with
  | .alone _ => 1
  | .withByte _ => 2
  | .withWord _ => 3

/-! ## The 16-bit dispatch table (48_dispatch R210 to R216) -/

/-- The set of opcodes an `on` call writes is `op & mask = pattern` (48_dispatch R212). -/
def OnCall.hits (c : OnCall) (op : Word) : Bool := op &&& c.mask == c.pattern

/-- The precondition `pattern & ~mask = 0` of an `on` call (48_dispatch R212). -/
def OnCall.ok (c : OnCall) : Bool := c.pattern &&& ~~~c.mask == 0

/-- `T[op]` after the calls in the order made: the last call that hits wins, and a slot no call has written holds the
invalid-opcode handler (48_dispatch R211, R213). -/
def handlerAt (table : List OnCall) (op : Word) : Handler :=
  match table.reverse.find? (·.hits op) with
  | some c => c.handler
  | none => .invalid

/-- One more `on` call; it is refused when its precondition fails (48_dispatch R212, log 23). -/
def onCall (table : List OnCall) (c : OnCall) : Option (List OnCall) :=
  if c.ok then some (table ++ [c]) else none

/-- The families the source names with their `(mask, pattern)` (48_dispatch R216). -/
def sourceFamilies : List OnCall :=
  [ ⟨0xF00F#16, 0x8001#16, .or⟩, ⟨0xF00F#16, 0x8002#16, .and⟩, ⟨0xF00F#16, 0x8003#16, .xor⟩,
    ⟨0xF00F#16, 0x8006#16, .shiftRight⟩, ⟨0xF00F#16, 0x800E#16, .shiftLeft⟩, ⟨0xF000#16, 0xD000#16, .draw⟩,
    ⟨0xF0FF#16, 0xF00A#16, .keyWait⟩, ⟨0xF0FF#16, 0xF055#16, .store⟩, ⟨0xF0FF#16, 0xF065#16, .load⟩,
    ⟨0xF000#16, 0x2000#16, .call⟩, ⟨0xFFFF#16, 0x00EE#16, .ret⟩ ]

/-- `op[11:8]`, `op[7:4]`, `op[3:0]`, `op[11:0]` (48_dispatch R215). -/
def fieldX (op : Word) : Nib := op.extractLsb' 8 4
/-- See `fieldX`. -/
def fieldY (op : Word) : Nib := op.extractLsb' 4 4
/-- See `fieldX`. -/
def fieldN (op : Word) : Nib := op.extractLsb' 0 4
/-- See `fieldX`. -/
def fieldNnn (op : Word) : BitVec 12 := op.extractLsb' 0 12

/-- The instruction a handler of the named families makes of an opcode. A parameter handler has no instruction of its
own here: the step runs it directly (log 19). -/
def Handler.instr (h : Handler) (op : Word) : Instr :=
  match h with
  | .or => .c8Or (fieldX op) (fieldY op)
  | .and => .c8And (fieldX op) (fieldY op)
  | .xor => .c8Xor (fieldX op) (fieldY op)
  | .shiftRight => .c8ShiftRight (fieldX op) (fieldY op)
  | .shiftLeft => .c8ShiftLeft (fieldX op) (fieldY op)
  | .draw => .c8Draw (fieldX op) (fieldY op) (fieldN op)
  | .keyWait => .c8KeyWait (fieldX op)
  | .store => .c8Store (fieldX op)
  | .load => .c8Load (fieldX op)
  | .call => .c8Call (fieldNnn op)
  | .ret => .c8Return
  | .param _ => .c8Unmapped op
  | .invalid => .c8Unmapped op

/-- Decode a 16-bit CHIP-8 opcode by the families the source names. -/
def decodeOpcode (op : Word) : Instr := (handlerAt sourceFamilies op).instr op

/-- Decode the CHIP-8 instruction at the head of a byte list, the byte at the lower address more significant
(20_memory R56). -/
def decodeChip8 (bytes : List Byte) : Except DecodeError (Instr × List Byte) :=
  match bytes with
  | [] => .error .noBytes
  | [_] => .error .missingOperand
  | hi :: lo :: rest => .ok (decodeOpcode (joinBytes hi lo), rest)

/-- The decoder of an engine. -/
def decode (e : Engine) (bytes : List Byte) : Except DecodeError (Instr × List Byte) :=
  match e with
  | .hardware => decode1802 bytes
  | .fastPath => decodeChip8 bytes

/-! ## The encoder -/

/-- Format `REG`: class digit and register number. -/
def encReg (cls : Nib) (n : Nib) : List Byte := [joinNibs cls n]

/-- Formats `IMM` and `SBR`: opcode and one byte. -/
def encByte (op b : Byte) : List Byte := [op, b]

/-- Format `LBR`: opcode, high address byte, low address byte. -/
def encAddr (op : Byte) (a : Word) : List Byte := [op, hiByte a, loByte a]

/-- A 16-bit CHIP-8 opcode in memory. -/
def encOpcode (op : Word) : List Byte := [hiByte op, loByte op]

/-- The 16-bit opcode of four digits. -/
def digits (a b c d : Nib) : Word := a ++ b ++ c ++ d

/-- The bytes of an instruction, first byte at the lowest address. -/
def encode : Instr → List Byte
  | .inc n => encReg 0x1#4 n
  | .dec n => encReg 0x2#4 n
  | .irx => [0x60#8]
  | .glo n => encReg 0x8#4 n
  | .ghi n => encReg 0x9#4 n
  | .plo n => encReg 0xA#4 n
  | .phi n => encReg 0xB#4 n
  | .ldn n => encReg 0x0#4 n
  | .lda n => encReg 0x4#4 n
  | .ldx => [0xF0#8]
  | .ldxa => [0x72#8]
  | .ldi b => encByte 0xF8#8 b
  | .str n => encReg 0x5#4 n
  | .stxd => [0x73#8]
  | .or => [0xF1#8]
  | .ori b => encByte 0xF9#8 b
  | .xor => [0xF3#8]
  | .xri b => encByte 0xFB#8 b
  | .and => [0xF2#8]
  | .ani b => encByte 0xFA#8 b
  | .shr => [0xF6#8]
  | .shrc => [0x76#8]
  | .shl => [0xFE#8]
  | .shlc => [0x7E#8]
  | .add => [0xF4#8]
  | .adi b => encByte 0xFC#8 b
  | .adc => [0x74#8]
  | .adci b => encByte 0x7C#8 b
  | .sd => [0xF5#8]
  | .sdi b => encByte 0xFD#8 b
  | .sdb => [0x75#8]
  | .sdbi b => encByte 0x7D#8 b
  | .sm => [0xF7#8]
  | .smi b => encByte 0xFF#8 b
  | .smb => [0x77#8]
  | .smbi b => encByte 0x7F#8 b
  | .br a => encByte 0x30#8 a
  | .bq a => encByte 0x31#8 a
  | .bz a => encByte 0x32#8 a
  | .bdf a => encByte 0x33#8 a
  | .b1 a => encByte 0x34#8 a
  | .b2 a => encByte 0x35#8 a
  | .b3 a => encByte 0x36#8 a
  | .b4 a => encByte 0x37#8 a
  | .nbr b => encByte 0x38#8 b
  | .bnq a => encByte 0x39#8 a
  | .bnz a => encByte 0x3A#8 a
  | .bnf a => encByte 0x3B#8 a
  | .bn1 a => encByte 0x3C#8 a
  | .bn2 a => encByte 0x3D#8 a
  | .bn3 a => encByte 0x3E#8 a
  | .bn4 a => encByte 0x3F#8 a
  | .lbr a => encAddr 0xC0#8 a
  | .lbq a => encAddr 0xC1#8 a
  | .lbz a => encAddr 0xC2#8 a
  | .lbdf a => encAddr 0xC3#8 a
  | .lbnq a => encAddr 0xC9#8 a
  | .lbnz a => encAddr 0xCA#8 a
  | .lbnf a => encAddr 0xCB#8 a
  | .lskp => [0xC8#8]
  | .lsnq => [0xC5#8]
  | .lsnz => [0xC6#8]
  | .lsnf => [0xC7#8]
  | .lsie => [0xCC#8]
  | .lsq => [0xCD#8]
  | .lsz => [0xCE#8]
  | .lsdf => [0xCF#8]
  | .nop => [0xC4#8]
  | .idl => [0x00#8]
  | .sep n => encReg 0xD#4 n
  | .sex n => encReg 0xE#4 n
  | .seq => [0x7B#8]
  | .req => [0x7A#8]
  | .sav => [0x78#8]
  | .mark => [0x79#8]
  | .ret => [0x70#8]
  | .dis => [0x71#8]
  | .out p => encReg 0x6#4 (0#1 ++ p)
  | .inp p => encReg 0x6#4 (1#1 ++ p)
  | .reserved => [0x68#8]
  | .c8Or x y => encOpcode (digits 0x8#4 x y 0x1#4)
  | .c8And x y => encOpcode (digits 0x8#4 x y 0x2#4)
  | .c8Xor x y => encOpcode (digits 0x8#4 x y 0x3#4)
  | .c8ShiftRight x y => encOpcode (digits 0x8#4 x y 0x6#4)
  | .c8ShiftLeft x y => encOpcode (digits 0x8#4 x y 0xE#4)
  | .c8Draw x y n => encOpcode (digits 0xD#4 x y n)
  | .c8KeyWait x => encOpcode (digits 0xF#4 x 0x0#4 0xA#4)
  | .c8Store x => encOpcode (digits 0xF#4 x 0x5#4 0x5#4)
  | .c8Load x => encOpcode (digits 0xF#4 x 0x6#4 0x5#4)
  | .c8Call nnn => encOpcode (0x2#4 ++ nnn)
  | .c8Return => encOpcode 0x00EE#16
  | .c8Unmapped op => encOpcode op

/-! ## The opcode table's numbering of bits -/

/-- The bytes of an instruction whose bits are `w` as spec/opcode_table.json numbers them: a CHIP-8 row is one 16-bit
word, stored high byte first; a CDP1802 row's first byte is bits 7:0 and later bytes count on from it (log 22). -/
def tableBytes (nbits w : Nat) : Engine × List Byte :=
  if nbits = 16 then (.fastPath, encOpcode (BitVec.ofNat 16 w))
  else (.hardware, [BitVec.ofNat 8 w, BitVec.ofNat 8 (w / 256), BitVec.ofNat 8 (w / 65536)])

/-- The instruction the decoder reads from a table word. -/
def decodeTableWord (nbits w : Nat) : Option Instr :=
  match decode (tableBytes nbits w).1 (tableBytes nbits w).2 with
  | .ok (i, _) => some i
  | .error _ => none

end Sys2Proof
end

