-- ==== Sys2Proof/WellFormed.lean ====
section
/-! DEFINITION. Which terms of Instr stand for an instruction: LDN names no register 0 (41_memory_reference R101), OUT
and INP name a port 1..7 (47_io R201, R202), and an unmapped opcode matches none of the families of 48_dispatch R216. -/

namespace Sys2Proof

/-- Well-formed instructions: those an encoding exists for. -/
def Instr.wf : Instr → Bool
  | .ldn n => n != 0
  | .out p => p != 0
  | .inp p => p != 0
  | .c8Unmapped op => !sourceFamilies.any (·.hits op)
  | .inc _ | .dec _ | .irx | .glo _ | .ghi _ | .plo _ | .phi _ | .lda _ | .ldx | .ldxa | .ldi _ | .str _
  | .stxd | .or | .ori _ | .xor | .xri _ | .and | .ani _ | .shr | .shrc | .shl | .shlc | .add | .adi _ | .adc
  | .adci _ | .sd | .sdi _ | .sdb | .sdbi _ | .sm | .smi _ | .smb | .smbi _ | .br _ | .bq _ | .bz _ | .bdf _ | .b1 _
  | .b2 _ | .b3 _ | .b4 _ | .nbr _ | .bnq _ | .bnz _ | .bnf _ | .bn1 _ | .bn2 _ | .bn3 _ | .bn4 _ | .lbr _ | .lbq _
  | .lbz _ | .lbdf _ | .lbnq _ | .lbnz _ | .lbnf _ | .lskp | .lsnq | .lsnz | .lsnf | .lsie | .lsq | .lsz | .lsdf
  | .nop | .idl | .sep _ | .sex _ | .seq | .req | .sav | .mark | .ret | .dis | .reserved
  | .c8Or _ _ | .c8And _ _ | .c8Xor _ _ | .c8ShiftRight _ _ | .c8ShiftLeft _ _ | .c8Draw _ _ _ | .c8KeyWait _
  | .c8Store _ | .c8Load _ | .c8Call _ | .c8Return => true

end Sys2Proof
end

