-- ==== Sys2Proof/Machine/State.lean ====
section
/-! DEFINITION. The state of the block as plain data (10_state R20 to R49), the reasons a step can stop, and the state
right after `reset()`. -/

namespace Sys2Proof.Machine

/-- Why a step stops although the machine is in a proper state. Raised by `step` alone, never by a meaning: an
instruction that faults takes the fault entry of 60_exceptions R251, which is a next state. -/
inductive Fault where
  /-- Raised by `step` in a state whose fault record is set, while no host call is pending. Safe: 60_exceptions R253 says
  that such a state is final until `reset()`. -/
  | halted (info : FaultInfo)
  deriving DecidableEq, Repr

/-- Why the model gives no answer. -/
inductive Refusal where
  /-- Raised by an arm of `exec` that has no meaning. No arm does. Safe. -/
  | notModelled (mnemonic : String)
  /-- Raised by `backendInstr` and `fastForward` when their fuel is spent (93_implementation_defined U13). Safe: `step`
  never raises it. -/
  | fuelSpent
  deriving DecidableEq, Repr

/-- The observable output events of the block: output strobes `(cycle, p, v)` (47_io R203), input strobes `(cycle, p)`
(47_io R204), DMA-out bytes `(cycle, address, v)` (60_exceptions R276), changes of the `Q` output `(cycle, value)`
(10_state R30, 30_encoding R82). There is no event for `updateScreen()`: R276 does not state when the host is told of a
finished frame (log 41). -/
inductive Event where
  | out (cycle : Nat) (port : Port) (v : Byte)
  | inp (cycle : Nat) (port : Port)
  | dmaOut (cycle : Nat) (addr : Word) (v : Byte)
  | qOutput (cycle : Nat) (value : Bool)
  deriving DecidableEq, Repr

/-- One entry of the `BreakpointMap`: an address and its metadata, bytes of the host's own that the block does not read
(10_state R49, 93_implementation_defined U18, log 27). -/
structure Breakpoint where
  addr : Addr8
  info : List Byte
  deriving DecidableEq, Repr

/-- What the host can ask of the block (00_scope R7 (3); log 13). -/
inductive HostAction where
  /-- `reset()` (70_reset R300). -/
  | reset
  /-- Load a program image, then `reset()` (20_memory R68). -/
  | loadAndReset (image : List Byte)
  /-- `setExecMode(m)` (48_dispatch R230). -/
  | setExecMode (m : ExecMode)
  /-- `setBreakpoint` (10_state R49). -/
  | setBreakpoint (b : Breakpoint)
  /-- `removeBreakpoint` (10_state R49). -/
  | removeBreakpoint (addr : Addr8)
  deriving DecidableEq, Repr

/-- Where the backend stands: still in the fast-forward of `reset()` (70_reset R307), or ready. -/
inductive Phase where
  | fastForward
  | ready
  deriving DecidableEq, Repr

/-- Bytes by address, addresses strictly rising, no entry equal to what an unlisted address reads as. -/
abbrev Memory := List Host.Cell

structure State where
  -- CDP1802 registers (10_state R21 to R30)
  r : Vector Word 16
  d : Byte
  df : Bool
  p : Nib
  x : Nib
  i : Nib
  n : Nib
  t : Byte
  ie : Bool
  q : Bool
  -- run state of the core (10_state R32 to R34)
  idle : Bool
  fault : Option FaultInfo
  cycles : Nat
  -- CDP1861 and platform (10_state R37, R39; 20_memory R67; 47_io R203)
  displayEnabled : Bool
  bootLatch : Bool
  keyLatch : Nib
  mem : Memory
  pad : Byte
  events : List Event
  -- CHIP-8-level execution state (10_state R40 to R49)
  v : Vector Byte 16
  i8 : Addr8
  pc8 : Addr8
  stack : Vector Addr8 16
  sp8 : Nat
  dt : Byte
  st : Byte
  cycles8 : Nat
  frames8 : Nat
  clears8 : Nat
  execMode : ExecMode
  stepOverDepth : Nat
  cpuState : CpuState
  breakpoints : List Breakpoint
  -- configuration, never written by a step (10_state R48; log 1)
  cfg : QuirkConfig
  -- the model's own: host, fast-forward, scheduler, free values (log 2, 8, 10, 13, 14)
  program : List Byte
  phase : Phase
  inTick : Bool
  frameLeft : Option Nat
  draws : Nat
  inbox : List HostAction
  deriving DecidableEq, Repr

/-- The offered defaults of `SHADOW_MAP` (48_dispatch R240), unverified (log 16). -/
def defaultShadow : ShadowMap :=
  let base : ShadowExpr := (ShadowExpr.reg 2).page
  let top : ShadowExpr := .add base (.const 0xCF)
  let depth : ShadowExpr := .div (.sub top (.reg 2)) (.const 2)
  { v := Vector.ofFn (fun i => .ram (.add base (.const (0xF0 + i.val)))),
    i8 := .reg 0xA, pc8 := .reg 5, dt := (ShadowExpr.reg 8).high, st := (ShadowExpr.reg 8).low, sp8 := depth,
    stack := Vector.ofFn (fun k =>
      .ramPair (.sub top (.const (2 * k.val + 2))) (.sub top (.const (2 * k.val + 1)))),
    stackCount := depth }

/-- The configuration of the reset state: the COSMAC VIP backend (log 5). -/
def vipConfig : QuirkConfig :=
  { engine := .hardware, stackPolicy := .error, shiftSource := .vy, vfResetOnLogic := true,
    loadStoreI := .plusXPlus1, iw := .bits12, space := .bits12, startAddr := 0x200#24, romWrite := .fault,
    hasBootLatch := true, ipf := none, tickOnPause := false, fastForward := .postCondition,
    table := sourceFamilies, shadow := defaultShadow }

/-- The machine right after `reset()` with no program loaded, before the fast-forward (70_reset R301, R302, R304, R306).
Registers the spec gives no reset value hold zero (log 3, log 4). -/
def State.reset : State :=
  { r := Vector.replicate 16 0#16, d := 0#8, df := false, p := 0#4, x := 0#4, i := 0#4, n := 0#4, t := 0#8,
    ie := true, q := false, idle := false, fault := none, cycles := 0, displayEnabled := false, bootLatch := true,
    keyLatch := 0#4, mem := [], pad := Config.resetImage 0, events := [], v := Vector.replicate 16 0#8, i8 := 0#24,
    pc8 := 0x200#24, stack := Vector.replicate 16 0#24, sp8 := 0, dt := 0#8, st := 0#8, cycles8 := 0, frames8 := 0,
    clears8 := 0, execMode := .paused, stepOverDepth := 0, cpuState := .normal, breakpoints := [], cfg := vipConfig,
    program := [], phase := .fastForward, inTick := false, frameLeft := none, draws := 0, inbox := [] }

end Sys2Proof.Machine
end

