-- ==== Sys2Proof/Machine/Ops.lean ====
section
/-! DEFINITION. The shared operations over registers and memory, the frame of one CDP1802 instruction and of one CHIP-8
instruction, taking a fault, taking an interrupt and returning from one. -/

namespace Sys2Proof.Machine

/-- The three outcomes of a step of this machine. -/
abbrev Result := Host.Outcome State Fault Refusal

/-! ## Memory as data (20_memory R50, R67; 70_reset R302) -/

/-- What an unlisted address reads as: the reset image below `LOAD_OFFSET`, 0x00 elsewhere (70_reset R302, log 6). -/
def Memory.unlisted (a : Nat) : Byte := if a < Config.loadOffset then Config.resetImage a else 0#8

/-- Read one byte. -/
def Memory.read (m : Memory) (a : Nat) : Byte :=
  match m with
  | [] => Memory.unlisted a
  | (b, w) :: m => if a = b then w else Memory.read m a

/-- Write one byte, keeping the canonical form. -/
def Memory.write (m : Memory) (a : Nat) (v : Byte) : Memory :=
  match m with
  | [] => if v = Memory.unlisted a then [] else [(a, v)]
  | (b, w) :: m =>
    if a = b then (if v = Memory.unlisted a then Memory.write m a v else (a, v) :: m)
    else if a < b ∧ v ≠ Memory.unlisted a then (a, v) :: (b, w) :: m
    else (b, w) :: Memory.write m a v

/-- Write bytes at consecutive addresses. -/
def Memory.writeList (m : Memory) (a : Nat) (bytes : List Byte) : Memory :=
  match bytes with
  | [] => m
  | b :: bs => Memory.writeList (Memory.write m a b) (a + 1) bs

/-- The canonical form: addresses strictly rising, no entry equal to what an unlisted address reads as. -/
abbrev Memory.wf (m : Memory) : Prop :=
  m.Pairwise (fun c c' => c.1 < c'.1) ∧ ∀ c ∈ m, c.2 ≠ Memory.unlisted c.1

/-! ## Registers -/

/-- `R[n]` (10_state R21). -/
def State.reg (s : State) (n : Nib) : Word := s.r.get ⟨n.toNat, n.isLt⟩

/-- `R[n] <- w`. -/
def State.setReg (s : State) (n : Nib) (w : Word) : State := { s with r := s.r.set n.toNat w n.isLt }

/-- The program counter is `R[P]` (10_state R22). -/
def State.pc (s : State) : Word := s.reg s.p

/-- `pc <- w` (00_scope R11). -/
def State.setPc (s : State) (w : Word) : State := s.setReg s.p w

/-- `V[k]` (10_state R40). -/
def State.vreg (s : State) (k : Nib) : Byte := s.v.get ⟨k.toNat, k.isLt⟩

/-- `V[k] <- b`. -/
def State.setV (s : State) (k : Nib) (b : Byte) : State := { s with v := s.v.set k.toNat b k.isLt }

/-- One more free value has been taken (log 8). -/
def State.tookDraw (s : State) : State := { s with draws := s.draws + 1 }

/-- An observable output event (47_io R203, R204; 60_exceptions R276); newest first (log 30). -/
def State.emit (s : State) (e : Event) : State := { s with events := e :: s.events }

/-! ## The CDP1802's memory accesses (20_memory R50 to R53) -/

/-- `EffAddr(addr)` (20_memory R53). -/
def effAddr (s : State) (a : Word) : Word := if s.bootLatch then a ||| 0x8000#16 else a

/-- The RAM window. -/
def inRam (ea : Nat) : Bool := Config.ramBase ≤ ea && ea < Config.ramBase + Config.ramSize

/-- The ROM window. -/
def inRom (ea : Nat) : Bool := Config.romBase ≤ ea && ea < Config.romBase + Config.romSize

/-- `MemRead(addr, 1)` (20_memory R50). -/
def memRead (s : State) (a : Word) : Except FaultInfo Byte :=
  let ea := (effAddr s a).toNat
  if inRam ea then .ok (s.mem.read (ea - Config.ramBase))
  else if inRom ea then .ok (Config.romMonitor (ea - Config.romBase))
  else .error (.hardwareFault .read a)

/-- `MemWrite(addr, 1, v)` (20_memory R51). -/
def memWrite (s : State) (a : Word) (v : Byte) : Except FaultInfo State :=
  let ea := (effAddr s a).toNat
  if inRam ea then .ok { s with mem := s.mem.write (ea - Config.ramBase) v }
  else if inRom ea then
    match s.cfg.romWrite with
    | .fault => .error (.hardwareFault .write a)
    | .ignore => .ok s
  else .error (.hardwareFault .write a)

/-! ## Taking a fault -/

/-- "enter fault F" (60_exceptions R251): every write of the aborted step is discarded, so it is applied to the state
`s0` the step began in; then the record, `cpuState` and `execMode` are set. No CHIP-8 instruction is in progress any more
(log 2). -/
def enterFault (f : FaultInfo) (s0 : State) : State :=
  { s0 with fault := some f, cpuState := .error, execMode := .paused, inTick := false }

/-! ## One CDP1802 instruction (30_encoding R78, R80) -/

/-- The fetch's effect on the registers: `R[P]` advances and `I`, `N` take the opcode's digits (30_encoding R78). -/
def fetched (op : Byte) (s : State) : State :=
  { s.setPc (s.pc + 1) with i := hiNib op, n := loNib op }

/-- `cycles <- cycles + 3` if `I = 0xC`, else `cycles + 2` (30_encoding R80, R81). -/
def countCycles (s : State) : State :=
  { s with cycles := s.cycles + (if s.i = 0xC#4 then 3 else 2) }

/-- `InstructionStep` of an instruction with opcode byte `op` and execute part `body`, from the state whose `R[P]`
addresses the opcode (30_encoding R80). -/
def instructionStep (op : Byte) (body : State → Except FaultInfo State) (s : State) : Result :=
  match body (fetched op s) with
  | .ok s' => .next (countCycles s')
  | .error f => .next (enterFault f s)

/-! ## Interrupt entry and return (60_exceptions R264, R266; 46_control R192, R193) -/

/-- `X : P`, the byte `T` takes (10_state R28). -/
def savedXP (s : State) : Byte := joinNibs s.x s.p

/-- `InterruptCycle` (60_exceptions R264). -/
def interruptCycle (s : State) : State :=
  { s with t := savedXP s, p := 1#4, x := 2#4, ie := false, idle := false, cycles := s.cycles + 1 }

/-- The execute part of `RET` and `DIS`: `X` and `P` from the byte at `R[X]`, which is stepped over; `IE <- ie`
(46_control R192, R193). -/
def returnThroughX (ie : Bool) (s : State) : Except FaultInfo State :=
  match memRead s (s.reg s.x) with
  | .error f => .error f
  | .ok v => .ok { s.setReg s.x (s.reg s.x + 1) with x := hiNib v, p := loNib v, ie := ie }

/-! ## DMA (60_exceptions R262) -/

/-- `DmaOutCycle`. -/
def dmaOutCycle (s : State) : State :=
  match memRead s (s.reg 0) with
  | .error f => enterFault f s
  | .ok v =>
    { (s.setReg 0 (s.reg 0 + 1)).emit (.dmaOut s.cycles (s.reg 0) v) with idle := false, cycles := s.cycles + 1 }

/-- `DmaInCycle`; unreachable in this block, where `dmaInReq` is constant 0 (log 29). -/
def dmaInCycle (s : State) : State :=
  match memWrite s (s.reg 0) (Config.dmaInValue s.draws s.cycles) with
  | .error f => enterFault f s
  | .ok s' => { (s'.setReg 0 (s'.reg 0 + 1)).tookDraw with idle := false, cycles := s'.cycles + 1 }

/-! ## CHIP-8 memory and addresses (20_memory R67; 10_state R41, R42; log 25) -/

/-- Reduce an address to a width: modulo `2 ^ bits`. -/
def trim (w : AddrWidth) (a : Addr8) : Addr8 := BitVec.ofNat 24 (a.toNat % 2 ^ w.bits)

/-- Read a byte of the fast path's memory, where index `MEM_SIZE` is the safety pad (20_memory R67). -/
def read8 (s : State) (a : Nat) : Byte := if a = s.cfg.memSize then s.pad else s.mem.read a

/-- Write a byte of the fast path's memory at a masked index; a write to address 0 also restores the pad
(20_memory R67, 48_dispatch R227). -/
def write8 (s : State) (a : Nat) (b : Byte) : State :=
  { s with mem := s.mem.write (a % s.cfg.memSize) b, pad := if a % s.cfg.memSize = 0 then b else s.pad }

/-- The 16-bit opcode at `PC8`, the address masked first (48_dispatch R218). -/
def fetchOpcode (s : State) : Word :=
  let a := s.pc8.toNat % s.cfg.memSize
  joinBytes (read8 s a) (read8 s (a + 1))

/-- The fetch's effect: `PC8 <- (a + 2) mod 2^W`, and `cycles8 <- cycles8 + 1` (48_dispatch R218, R219). -/
def fetched8 (s : State) : State :=
  { s with pc8 := trim s.cfg.space (s.pc8 + 2), cycles8 := s.cycles8 + 1 }

/-- `FastStep` of a handler: on a raise everything is undone (48_dispatch R219, 60_exceptions R251, R252). -/
def handlerStep (body : State → Except FaultInfo State) (s : State) : Result :=
  match body (fetched8 s) with
  | .ok s' => .next s'
  | .error f => .next (enterFault f s)

/-! ## The return stack (48_dispatch R222, R223) -/

/-- `S[k]`, the index taken modulo 16. -/
def State.stackAt (s : State) (k : Nat) : Addr8 := s.stack.get ⟨k % 16, Nat.mod_lt k (by decide)⟩

/-- `S[k] <- a`, the index taken modulo 16. -/
def State.setStack (s : State) (k : Nat) (a : Addr8) : State :=
  { s with stack := s.stack.set (k % 16) a (Nat.mod_lt k (by decide)) }

/-- `Push(v)` (48_dispatch R222). A depth above 16 under `error` is unreachable and raises too (log 24). -/
def push (a : Addr8) (s : State) : Except FaultInfo State :=
  match s.cfg.stackPolicy with
  | .error =>
    if Config.stackDepth ≤ s.sp8 then .error .stackOverflow
    else .ok { s.setStack s.sp8 a with sp8 := s.sp8 + 1 }
  | .cyclic => .ok { s.setStack s.sp8 a with sp8 := (s.sp8 + 1) % 16 }

/-- `Pop()` (48_dispatch R223): the value and the new depth. -/
def pop (s : State) : Except FaultInfo (Addr8 × Nat) :=
  match s.cfg.stackPolicy with
  | .error => if s.sp8 = 0 then .error .stackUnderflow else .ok (s.stackAt (s.sp8 - 1), s.sp8 - 1)
  | .cyclic => .ok (s.stackAt ((s.sp8 + 15) % 16), (s.sp8 + 15) % 16)

end Sys2Proof.Machine
end

