-- ==== Sys2Proof/Machine/Video.lean ====
section
/-! DEFINITION. The CDP1861 as functions of the cycle index and `displayEnabled` (60_exceptions R270 to R277), the
core's request inputs (10_state R35) and external flags (10_state R36). -/

namespace Sys2Proof.Machine

/-- `frameCycle(c)` (60_exceptions R271). -/
def frameCycle (c : Nat) : Nat := c % Config.cyclesPerFrame

/-- `videoLine(c)`. -/
def videoLine (c : Nat) : Nat := frameCycle c / Config.cyclesPerLine

/-- `lineCycle(c)`. -/
def lineCycle (c : Nat) : Nat := frameCycle c % Config.cyclesPerLine

/-- `frameNumber(c)`. -/
def frameNumber (c : Nat) : Nat := c / Config.cyclesPerFrame

/-- `INT_LINES`: lines 78 and 79 (60_exceptions R273). -/
def inIntLines (line : Nat) : Bool := line == 78 || line == 79

/-- `DISPLAY_LINES`: lines 80 to 207 (60_exceptions R274). -/
def inDisplayLines (line : Nat) : Bool := 80 ≤ line && line ≤ 207

/-- `EF1_LINES`: lines 76 to 79 and 204 to 207 (60_exceptions R275). -/
def inEfxLines (line : Nat) : Bool := (76 ≤ line && line ≤ 79) || (204 ≤ line && line ≤ 207)

/-- `intReq(c)` (60_exceptions R273). -/
def intReq (s : State) (c : Nat) : Bool := s.displayEnabled && inIntLines (videoLine c)

/-- `dmaOutReq(c)` (60_exceptions R274). -/
def dmaOutReq (s : State) (c : Nat) : Bool :=
  s.displayEnabled && inDisplayLines (videoLine c) &&
    (Config.dmaStart ≤ lineCycle c && lineCycle c < Config.dmaStart + Config.dmaLen)

/-- `dmaInReq(c)`: constant 0 on this platform (10_state R35, log 29). -/
def dmaInReq (_s : State) (_c : Nat) : Bool := false

/-- `EFX(c)` (60_exceptions R275). -/
def efx (c : Nat) : Bool := inEfxLines (videoLine c)

/-! ## External flags, sampled at the execute cycle `cycles + 1` (10_state R36) -/

/-- `EF(1)`: the CDP1861's `EFX`. -/
def ef1 (s : State) : Bool := efx (s.cycles + 1)

/-- `EF(2)`: constant. -/
def ef2 (_s : State) : Bool := Config.ef2Source

/-- `EF(3)`: the host's answer for the key `keyLatch` selects, a free value of the draw (log 9). -/
def ef3 (s : State) : Bool := Config.isKeyDown s.draws (s.cycles + 1) s.keyLatch

/-- `EF(4)`: constant. -/
def ef4 (_s : State) : Bool := Config.ef4Source

/-- What a `CoreStep` does next, the `if` chain of 30_encoding R79. -/
inductive CycleKind where
  | dmaIn
  | dmaOut
  | interrupt
  | idle
  | instruction
  deriving DecidableEq, Repr

/-- The choice of a `CoreStep`, requests sampled for index `cycles` (30_encoding R79, 60_exceptions R261, R263). -/
def nextCycle (s : State) : CycleKind :=
  if dmaInReq s s.cycles then .dmaIn
  else if dmaOutReq s s.cycles then .dmaOut
  else if intReq s s.cycles && s.ie then .interrupt
  else if s.idle then .idle
  else .instruction

end Sys2Proof.Machine
end

