-- ==== Sys2Proof/Machine/Operands.lean ====
section
/-! DEFINITION. Every operand form of the CDP1802: through `R[N]`, through `R[X]`, immediate through `R[P]`
(41_memory_reference R100, 30_encoding R72); the branch and skip forms (44_short_branch R145, 45_long_branch_skip R165,
R173); the ports (47_io R203, R204); the CHIP-8 register operands. -/

namespace Sys2Proof.Machine

/-- The memory operand of a register form: `MemRead(R[X], 1)`. -/
def operandX (s : State) : Except FaultInfo Byte := memRead s (s.reg s.x)

/-- The immediate operand: `MemRead(R[P], 1)` then `R[P] <- R[P] + 1`. The byte is the one the decoder took from that
address. The access is made here, so here it can fault (log 21). -/
def immediate (b : Byte) (s : State) : Except FaultInfo (Byte × State) :=
  match memRead s s.pc with
  | .error f => .error f
  | .ok _ => .ok (b, s.setPc (s.pc + 1))

/-- `f M` with `M = MemRead(R[X], 1)` (42_logic_shift R110, 43_arithmetic R125). -/
def withX (f : Byte → State → State) (s : State) : Except FaultInfo State :=
  match operandX s with
  | .error e => .error e
  | .ok m => .ok (f m s)

/-- `f M` with `M` the immediate, `R[P]` stepped over it first (42_logic_shift R110, 43_arithmetic R125). -/
def withImmediate (imm : Byte) (f : Byte → State → State) (s : State) : Except FaultInfo State :=
  match immediate imm s with
  | .error e => .error e
  | .ok (m, s) => .ok (f m s)

/-- `ShortBranch(cond)` (44_short_branch R145): the operand byte is read only when the branch is taken. -/
def shortBranch (cond : Bool) (addr : Byte) (s : State) : Except FaultInfo State :=
  let skip := s.setPc (s.pc + 1)
  match memRead s s.pc with
  | .ok _ => .ok (if cond then s.setPc (joinBytes (hiByte s.pc) addr) else skip)
  | .error f => if cond then .error f else .ok skip

/-- `LongBranch(cond)` (45_long_branch_skip R165): the high byte is read before the low byte, and neither when the branch
is not taken. -/
def longBranch (cond : Bool) (addr : Word) (s : State) : Except FaultInfo State :=
  let skip := s.setPc (s.pc + 2)
  match memRead s s.pc, memRead s (s.pc + 1) with
  | .ok _, .ok _ => .ok (if cond then s.setPc addr else skip)
  | .error f, _ => if cond then .error f else .ok skip
  | .ok _, .error f => if cond then .error f else .ok skip

/-- `LongSkip(cond)` (45_long_branch_skip R173). -/
def longSkip (cond : Bool) (s : State) : Except FaultInfo State :=
  .ok (if cond then s.setPc (s.pc + 2) else s)

/-- Is `D = 0x00`: computed when tested, not stored (10_state R24). -/
def dZero (s : State) : Bool := s.d == 0#8

/-- `IoOut(p, v)` (47_io R203), strobed in the execute cycle `cycles + 1` (30_encoding R82). -/
def ioOut (port : Port) (v : Byte) (s : State) : State :=
  let s := s.emit (.out (s.cycles + 1) port v)
  match port.toNat with
  | 1 => { s with displayEnabled := false }
  | 2 => { s with keyLatch := loNib v }
  | 4 => { s with bootLatch := false }
  | _ => s

/-- `Q <- b`. A change of the output is an event of the execute cycle `cycles + 1` (46_control R188, R189, 30_encoding
R82, log 30). -/
def setQ (b : Bool) (s : State) : State :=
  { s with q := b, events := if s.q = b then s.events else .qOutput (s.cycles + 1) b :: s.events }

/-- The byte `IoIn(p)` delivers: a free value (47_io R204, log 8). -/
def inputByte (port : Port) (s : State) : Byte := Config.inpValue s.draws port (s.cycles + 1)

/-- The strobe of `IoIn(p)` (47_io R204). -/
def ioIn (port : Port) (s : State) : State :=
  let s := (s.emit (.inp (s.cycles + 1) port)).tookDraw
  match port.toNat with
  | 1 => { s with displayEnabled := true }
  | _ => s

end Sys2Proof.Machine
end

