-- ==== Sys2Proof/Machine/Flags.lean ====
section
/-! DEFINITION. The computations that write a flag: `DF` of the CDP1802 (43_arithmetic R125, 42_logic_shift R117 to R120)
and `V[15]` of the CHIP-8 level (48_dispatch R225, R226). -/

namespace Sys2Proof.Machine

/-- A one-bit value as a number. -/
def bit (b : Bool) : Nat := if b then 1 else 0

/-- `t = a + b + cin`, exactly (43_arithmetic R125). -/
def sum3 (a b : Byte) (cin : Bool) : Nat := a.toNat + b.toNat + bit cin

/-- `D <- t mod 256`, `DF <- t div 256` (43_arithmetic R125). -/
def add3 (a b : Byte) (cin : Bool) (s : State) : State :=
  { s with d := BitVec.ofNat 8 (sum3 a b cin), df := decide (256 ≤ sum3 a b cin) }

/-- `SHR`, `SHRC`: every bit one place right, `top` into bit 7, old bit 0 into `DF` (42_logic_shift R117, R118). -/
def shiftRight (top : Bool) (s : State) : State :=
  { s with d := (s.d >>> 1) ||| (if top then 0x80#8 else 0x00#8), df := s.d.getLsbD 0 }

/-- `SHL`, `SHLC`: every bit one place left, `low` into bit 0, old bit 7 into `DF` (42_logic_shift R119, R120). -/
def shiftLeft (low : Bool) (s : State) : State :=
  { s with d := (s.d <<< 1) ||| (if low then 0x01#8 else 0x00#8), df := s.d.getLsbD 7 }

/-- The flag register of the CHIP-8 level. -/
def vf : Nib := 0xF#4

/-- Write a result, then the flag into `V[15]`, in this order (48_dispatch R225). -/
def resultThenFlag (x : Nib) (res : Byte) (flag : Bool) (s : State) : State :=
  (s.setV x res).setV vf (if flag then 1#8 else 0#8)

/-- Write a logic result, then clear `V[15]` if the quirk says so (48_dispatch R226). -/
def logicResult (x : Nib) (res : Byte) (s : State) : State :=
  if s.cfg.vfResetOnLogic then (s.setV x res).setV vf 0#8 else s.setV x res

end Sys2Proof.Machine
end

