-- ==== Sys2Proof/Machine/Arithmetic.lean ====
section
/-! DEFINITION. Arithmetic ADD ADI ADC ADCI SD SDI SDB SDBI SM SMI SMB SMBI (43_arithmetic): the 9-bit sum of R125. -/

namespace Sys2Proof.Machine

/-- `Add3(M, D, cin)`. -/
def addM (cin : Bool) (m : Byte) (s : State) : State := add3 m s.d cin s

/-- `Add3(M, ~D, cin)`: `M - D`. -/
def subFromM (cin : Bool) (m : Byte) (s : State) : State := add3 m (~~~s.d) cin s

/-- `Add3(D, ~M, cin)`: `D - M`. -/
def subM (cin : Bool) (m : Byte) (s : State) : State := add3 s.d (~~~m) cin s

/-- `ADD` (R126). -/
def execAdd (s : State) : Result :=
  instructionStep 0xF4#8 (fun s => withX (addM false) s) s

/-- `ADI imm` (R127). -/
def execAdi (imm : Byte) (s : State) : Result :=
  instructionStep 0xFC#8 (fun s => withImmediate imm (addM false) s) s

/-- `ADC` (R128). -/
def execAdc (s : State) : Result :=
  instructionStep 0x74#8 (fun s => withX (addM s.df) s) s

/-- `ADCI imm` (R129). -/
def execAdci (imm : Byte) (s : State) : Result :=
  instructionStep 0x7C#8 (fun s => withImmediate imm (addM s.df) s) s

/-- `SD` (R130). -/
def execSd (s : State) : Result :=
  instructionStep 0xF5#8 (fun s => withX (subFromM true) s) s

/-- `SDI imm` (R131). -/
def execSdi (imm : Byte) (s : State) : Result :=
  instructionStep 0xFD#8 (fun s => withImmediate imm (subFromM true) s) s

/-- `SDB` (R132). -/
def execSdb (s : State) : Result :=
  instructionStep 0x75#8 (fun s => withX (subFromM s.df) s) s

/-- `SDBI imm` (R133). -/
def execSdbi (imm : Byte) (s : State) : Result :=
  instructionStep 0x7D#8 (fun s => withImmediate imm (subFromM s.df) s) s

/-- `SM` (R134). -/
def execSm (s : State) : Result :=
  instructionStep 0xF7#8 (fun s => withX (subM true) s) s

/-- `SMI imm` (R135). -/
def execSmi (imm : Byte) (s : State) : Result :=
  instructionStep 0xFF#8 (fun s => withImmediate imm (subM true) s) s

/-- `SMB` (R136). -/
def execSmb (s : State) : Result :=
  instructionStep 0x77#8 (fun s => withX (subM s.df) s) s

/-- `SMBI imm` (R137). -/
def execSmbi (imm : Byte) (s : State) : Result :=
  instructionStep 0x7F#8 (fun s => withImmediate imm (subM s.df) s) s

end Sys2Proof.Machine
end

