-- ==== Sys2Proof/Machine/Chip8Ops.lean ====
section
/-! DEFINITION. The CHIP-8 handlers (48_dispatch R214, R221 to R229) and the parameter handlers (R220). -/

namespace Sys2Proof.Machine

/-! ## Parameter handlers (R220, log 19) -/

/-- What a parameter handler reads. -/
def handlerView (s : State) : HandlerView :=
  { v := s.v, i8 := s.i8, pc8 := s.pc8, stack := s.stack, sp8 := s.sp8, dt := s.dt, st := s.st, cycles8 := s.cycles8,
    frames8 := s.frames8, clears8 := s.clears8, execMode := s.execMode, cpuState := s.cpuState, mem := s.mem }

/-- Write a list of bytes in order. -/
def writeAll8 (writes : List (Nat × Byte)) (s : State) : State :=
  writes.foldl (fun s w => write8 s w.1 w.2) s

/-- A stack depth kept in the range of the policy (R222). -/
def boundDepth (p : StackPolicy) (k : Nat) : Nat :=
  match p with
  | .error => min k Config.stackDepth
  | .cyclic => k % Config.stackDepth

/-- Commit what a parameter handler answers. Addresses are reduced to their widths, the depth to its range, and memory
bytes are written one by one, so the machine's own invariants hold whatever the handler is. -/
def applyEffect (e : HandlerEffect) (s : State) : State :=
  writeAll8 e.writes
    { s.tookDraw with
      v := e.v, i8 := trim s.cfg.iw e.i8, pc8 := trim s.cfg.space e.pc8,
      stack := e.stack.map (trim s.cfg.space), sp8 := boundDepth s.cfg.stackPolicy e.sp8, dt := e.dt, st := e.st,
      cycles8 := e.cycles8, frames8 := e.frames8, clears8 := e.clears8, execMode := e.execMode,
      cpuState := if e.waiting then .waiting else .normal }

/-- Run a parameter handler on an opcode, as a `FastStep`. It always answers a next state: its own, or the fault it
raises taken. -/
def runHandler (h : Handler) (op : Word) (s : State) : Result :=
  let e := Config.handler h s.draws op (handlerView (fetched8 s))
  .next (match e.raised with
    | none => applyEffect e (fetched8 s)
    | some f => enterFault f s)

/-! ## The handlers the source constrains -/

/-- `8xy1`: or (R226). -/
def execC8Or (x y : Nib) (s : State) : Result :=
  handlerStep (fun s => .ok (logicResult x (s.vreg x ||| s.vreg y) s)) s

/-- `8xy2`: and (R226). -/
def execC8And (x y : Nib) (s : State) : Result :=
  handlerStep (fun s => .ok (logicResult x (s.vreg x &&& s.vreg y) s)) s

/-- `8xy3`: exclusive or (R226). -/
def execC8Xor (x y : Nib) (s : State) : Result :=
  handlerStep (fun s => .ok (logicResult x (s.vreg x ^^^ s.vreg y) s)) s

/-- The source register of a shift, by the quirk `SHIFT_SOURCE` (R225). -/
def shiftOperand (x y : Nib) (s : State) : Byte :=
  match s.cfg.shiftSource with
  | .vx => s.vreg x
  | .vy => s.vreg y

/-- `8xy6`: shift right (R225). -/
def execC8ShiftRight (x y : Nib) (s : State) : Result :=
  handlerStep (fun s => .ok (resultThenFlag x (shiftOperand x y s >>> 1) ((shiftOperand x y s).getLsbD 0) s)) s

/-- `8xyE`: shift left (R225). -/
def execC8ShiftLeft (x y : Nib) (s : State) : Result :=
  handlerStep (fun s => .ok (resultThenFlag x (shiftOperand x y s <<< 1) ((shiftOperand x y s).getLsbD 7) s)) s

/-- `Dxyn`: drawing is a parameter handler (R229, log 20). -/
def execC8Draw (x y n : Nib) (s : State) : Result :=
  runHandler .draw (digits 0xD#4 x y n) s

/-- The execute part of `Fx0A` (R228) for the host's answer `k`. -/
def keyWait (x : Nib) (k : Option Nib) (s : State) : State :=
  match k with
  | none => { s with pc8 := trim s.cfg.space (s.pc8 - 2), cpuState := .waiting }
  | some k => { s.setV x (k.zeroExtend 8) with cpuState := .normal }

/-- `Fx0A`: key wait (R228). The host's answer is a free value, and one draw is taken. -/
def execC8KeyWait (x : Nib) (s : State) : Result :=
  handlerStep (fun s => .ok (keyWait x (Config.getKeyPressed s.draws) s.tookDraw)) s

/-- The masked index of the `k`-th byte at `I8` (R227). -/
def indexAt (s : State) (k : Nat) : Nat := (s.i8.toNat + k) % s.cfg.memSize

/-- For `i` in 0..k, `mem[(I8 + i) masked] <- V[i]`, in this order (R227). -/
def storeRegs (k : Nat) (s : State) : State :=
  match k with
  | 0 => write8 s (indexAt s 0) (s.vreg 0)
  | k + 1 => let s := storeRegs k s; write8 s (indexAt s (k + 1)) (s.vreg (BitVec.ofNat 4 (k + 1)))

/-- For `i` in 0..k, `V[i] <- mem[(I8 + i) masked]`, in this order (R227). -/
def loadRegs (k : Nat) (s : State) : State :=
  match k with
  | 0 => s.setV 0 (s.mem.read (indexAt s 0))
  | k + 1 => let s := loadRegs k s; s.setV (BitVec.ofNat 4 (k + 1)) (s.mem.read (indexAt s (k + 1)))

/-- The quirk `LOADSTORE_I` (R227). -/
def moveI (x : Nib) (s : State) : State :=
  match s.cfg.loadStoreI with
  | .unchanged => s
  | .plusX => { s with i8 := trim s.cfg.iw (s.i8 + x.zeroExtend 24) }
  | .plusXPlus1 => { s with i8 := trim s.cfg.iw (s.i8 + x.zeroExtend 24 + 1) }

/-- `Fx55`: store `V[0]..V[x]` (R227). -/
def execC8Store (x : Nib) (s : State) : Result :=
  handlerStep (fun s => .ok (moveI x (storeRegs x.toNat s))) s

/-- `Fx65`: load `V[0]..V[x]` (R227). -/
def execC8Load (x : Nib) (s : State) : Result :=
  handlerStep (fun s => .ok (moveI x (loadRegs x.toNat s))) s

/-- The execute part of the call (R221). -/
def callTo (nnn : BitVec 12) (s : State) : Except FaultInfo State :=
  match push s.pc8 s with
  | .error f => .error f
  | .ok s => .ok { s with pc8 := nnn.zeroExtend 24 }

/-- `2nnn`: call (R221). -/
def execC8Call (nnn : BitVec 12) (s : State) : Result :=
  handlerStep (fun s => callTo nnn s) s

/-- The execute part of the return (R224). -/
def returnFromStack (s : State) : Except FaultInfo State :=
  match pop s with
  | .error f => .error f
  | .ok (a, k) => .ok { s with pc8 := a, sp8 := k }

/-- `00EE`: return (R224). -/
def execC8Return (s : State) : Result :=
  handlerStep (fun s => returnFromStack s) s

/-- Every opcode no family holds: the invalid-opcode handler (R214). -/
def execC8Unmapped (op : Word) (s : State) : Result :=
  handlerStep (fun _ => .error (.invalidOpcode op)) s

end Sys2Proof.Machine
end

