-- ==== Sys2Proof/Machine/Control.lean ====
section
/-! DEFINITION. Control IDL SEP SEX SEQ REQ SAV MARK RET DIS (46_control). -/

namespace Sys2Proof.Machine

/-- The execute part of `SAV` (R190). -/
def saveT (s : State) : Except FaultInfo State := memWrite s (s.reg s.x) s.t

/-- The execute part of `MARK` (R191): the byte `X : P` goes to `T` and through the old `R[2]`; then `X <- P` and
`R[2]` steps down. -/
def markStack (s : State) : Except FaultInfo State :=
  match memWrite { s with t := savedXP s } (s.reg 2) (savedXP s) with
  | .error f => .error f
  | .ok s => .ok ({ s with x := s.p }.setReg 2 (s.reg 2 - 1))

/-- `IDL` (R185). -/
def execIdl (s : State) : Result :=
  instructionStep 0x00#8 (fun s => .ok { s with idle := true }) s

/-- `SEP n` (R186). -/
def execSep (n : Nib) (s : State) : Result :=
  instructionStep (joinNibs 0xD#4 n) (fun s => .ok { s with p := n }) s

/-- `SEX n` (R187). -/
def execSex (n : Nib) (s : State) : Result :=
  instructionStep (joinNibs 0xE#4 n) (fun s => .ok { s with x := n }) s

/-- `SEQ` (R188). -/
def execSeq (s : State) : Result :=
  instructionStep 0x7B#8 (fun s => .ok (setQ true s)) s

/-- `REQ` (R189). -/
def execReq (s : State) : Result :=
  instructionStep 0x7A#8 (fun s => .ok (setQ false s)) s

/-- `SAV` (R190). -/
def execSav (s : State) : Result :=
  instructionStep 0x78#8 (fun s => saveT s) s

/-- `MARK` (R191). -/
def execMark (s : State) : Result :=
  instructionStep 0x79#8 (fun s => markStack s) s

/-- `RET` (R192). -/
def execRet (s : State) : Result :=
  instructionStep 0x70#8 (fun s => returnThroughX true s) s

/-- `DIS` (R193). -/
def execDis (s : State) : Result :=
  instructionStep 0x71#8 (fun s => returnThroughX false s) s

end Sys2Proof.Machine
end

