-- ==== Sys2Proof/Machine/InOut.lean ====
section
/-! DEFINITION. Input and output, and the reserved opcode 0x68 (47_io). -/

namespace Sys2Proof.Machine

/-- The execute part of `OUT` (R201): the byte at `R[X]` goes to the port and is stepped over. -/
def outputByte (port : Port) (s : State) : Except FaultInfo State :=
  match operandX s with
  | .error f => .error f
  | .ok v => .ok ((ioOut port v s).setReg s.x (s.reg s.x + 1))

/-- The execute part of `INP` (R202): the port's byte goes to memory at `R[X]` and to `D`. -/
def storeInput (port : Port) (s : State) : Except FaultInfo State :=
  match memWrite (ioIn port s) (s.reg s.x) (inputByte port s) with
  | .error f => .error f
  | .ok s' => .ok { s' with d := inputByte port s }

/-- `OUT p` (R201). -/
def execOut (port : Port) (s : State) : Result :=
  instructionStep (joinNibs 0x6#4 (0#1 ++ port)) (fun s => outputByte port s) s

/-- `INP p` (R202). -/
def execInp (port : Port) (s : State) : Result :=
  instructionStep (joinNibs 0x6#4 (1#1 ++ port)) (fun s => storeInput port s) s

/-- Opcode `0x68` (R205): raises `InvalidOpcode(0x68)`. -/
def execReserved (s : State) : Result :=
  instructionStep 0x68#8 (fun _ => .error (.invalidOpcode 0x68#16)) s

end Sys2Proof.Machine
end

