-- ==== Sys2Proof/Machine/LogicOps.lean ====
section
/-! DEFINITION. Logic and shift OR ORI XOR XRI AND ANI SHR SHRC SHL SHLC (42_logic_shift). -/

namespace Sys2Proof.Machine

/-- `D <- D | M`. -/
def orD (m : Byte) (s : State) : State := { s with d := s.d ||| m }

/-- `D <- D ^ M`. -/
def xorD (m : Byte) (s : State) : State := { s with d := s.d ^^^ m }

/-- `D <- D & M`. -/
def andD (m : Byte) (s : State) : State := { s with d := s.d &&& m }

/-- `OR` (R111). -/
def execOr (s : State) : Result :=
  instructionStep 0xF1#8 (fun s => withX orD s) s

/-- `ORI imm` (R112). -/
def execOri (imm : Byte) (s : State) : Result :=
  instructionStep 0xF9#8 (fun s => withImmediate imm orD s) s

/-- `XOR` (R113). -/
def execXor (s : State) : Result :=
  instructionStep 0xF3#8 (fun s => withX xorD s) s

/-- `XRI imm` (R114). -/
def execXri (imm : Byte) (s : State) : Result :=
  instructionStep 0xFB#8 (fun s => withImmediate imm xorD s) s

/-- `AND` (R115). -/
def execAnd (s : State) : Result :=
  instructionStep 0xF2#8 (fun s => withX andD s) s

/-- `ANI imm` (R116). -/
def execAni (imm : Byte) (s : State) : Result :=
  instructionStep 0xFA#8 (fun s => withImmediate imm andD s) s

/-- `SHR` (R117): bit 7 becomes 0. -/
def execShr (s : State) : Result :=
  instructionStep 0xF6#8 (fun s => .ok (shiftRight false s)) s

/-- `SHRC` (R118): `DF` goes into bit 7. -/
def execShrc (s : State) : Result :=
  instructionStep 0x76#8 (fun s => .ok (shiftRight s.df s)) s

/-- `SHL` (R119): bit 0 becomes 0. -/
def execShl (s : State) : Result :=
  instructionStep 0xFE#8 (fun s => .ok (shiftLeft false s)) s

/-- `SHLC` (R120): `DF` goes into bit 0. -/
def execShlc (s : State) : Result :=
  instructionStep 0x7E#8 (fun s => .ok (shiftLeft s.df s)) s

end Sys2Proof.Machine
end

