-- ==== Sys2Proof/Machine/LongBranch.lean ====
section
/-! DEFINITION. Long branches, long skips and NOP (45_long_branch_skip): three machine cycles each. -/

namespace Sys2Proof.Machine

/-- `LBR` (R166). -/
def execLbr (addr : Word) (s : State) : Result :=
  instructionStep 0xC0#8 (fun s => longBranch true addr s) s

/-- `LBQ` (R167). -/
def execLbq (addr : Word) (s : State) : Result :=
  instructionStep 0xC1#8 (fun s => longBranch s.q addr s) s

/-- `LBZ` (R168). -/
def execLbz (addr : Word) (s : State) : Result :=
  instructionStep 0xC2#8 (fun s => longBranch (dZero s) addr s) s

/-- `LBDF` (R169). -/
def execLbdf (addr : Word) (s : State) : Result :=
  instructionStep 0xC3#8 (fun s => longBranch s.df addr s) s

/-- `LBNQ` (R170). -/
def execLbnq (addr : Word) (s : State) : Result :=
  instructionStep 0xC9#8 (fun s => longBranch (!s.q) addr s) s

/-- `LBNZ` (R171). -/
def execLbnz (addr : Word) (s : State) : Result :=
  instructionStep 0xCA#8 (fun s => longBranch (!dZero s) addr s) s

/-- `LBNF` (R172). -/
def execLbnf (addr : Word) (s : State) : Result :=
  instructionStep 0xCB#8 (fun s => longBranch (!s.df) addr s) s

/-- `LSKP` (R174). -/
def execLskp (s : State) : Result :=
  instructionStep 0xC8#8 (fun s => longSkip true s) s

/-- `LSNQ` (R175). -/
def execLsnq (s : State) : Result :=
  instructionStep 0xC5#8 (fun s => longSkip (!s.q) s) s

/-- `LSNZ` (R176). -/
def execLsnz (s : State) : Result :=
  instructionStep 0xC6#8 (fun s => longSkip (!dZero s) s) s

/-- `LSNF` (R177). -/
def execLsnf (s : State) : Result :=
  instructionStep 0xC7#8 (fun s => longSkip (!s.df) s) s

/-- `LSIE` (R178). -/
def execLsie (s : State) : Result :=
  instructionStep 0xCC#8 (fun s => longSkip s.ie s) s

/-- `LSQ` (R179). -/
def execLsq (s : State) : Result :=
  instructionStep 0xCD#8 (fun s => longSkip s.q s) s

/-- `LSZ` (R180). -/
def execLsz (s : State) : Result :=
  instructionStep 0xCE#8 (fun s => longSkip (dZero s) s) s

/-- `LSDF` (R181). -/
def execLsdf (s : State) : Result :=
  instructionStep 0xCF#8 (fun s => longSkip s.df s) s

/-- `NOP` (R182). -/
def execNop (s : State) : Result :=
  instructionStep 0xC4#8 (fun s => .ok s) s

end Sys2Proof.Machine
end

