-- ==== Sys2Proof/Machine/MemoryOps.lean ====
section
/-! DEFINITION. Memory reference LDN LDA LDX LDXA LDI STR STXD (41_memory_reference). -/

namespace Sys2Proof.Machine

/-- `D <- v` with a post-modification `after`, when the read answers `v`. -/
def loadInto (read : Except FaultInfo Byte) (after : State → State) (s : State) : Except FaultInfo State :=
  match read with
  | .error f => .error f
  | .ok v => .ok (after { s with d := v })

/-- `D <- imm` of an immediate form. -/
def loadImmediate (imm : Byte) (s : State) : Except FaultInfo State :=
  match immediate imm s with
  | .error f => .error f
  | .ok (v, s) => .ok { s with d := v }

/-- `MemWrite(a, 1, v)` with a post-modification `after`, when the write is allowed. -/
def storeAt (a : Word) (v : Byte) (after : State → State) (s : State) : Except FaultInfo State :=
  match memWrite s a v with
  | .error f => .error f
  | .ok s => .ok (after s)

/-- `LDN n` (R101): `R[n]` unchanged. -/
def execLdn (n : Nib) (s : State) : Result :=
  instructionStep (joinNibs 0x0#4 n) (fun s => loadInto (memRead s (s.reg n)) id s) s

/-- `LDA n` (R102). -/
def execLda (n : Nib) (s : State) : Result :=
  instructionStep (joinNibs 0x4#4 n) (fun s => loadInto (memRead s (s.reg n)) (fun s => s.setReg n (s.reg n + 1)) s) s

/-- `LDX` (R103). -/
def execLdx (s : State) : Result :=
  instructionStep 0xF0#8 (fun s => loadInto (operandX s) id s) s

/-- `LDXA` (R104). -/
def execLdxa (s : State) : Result :=
  instructionStep 0x72#8 (fun s => loadInto (operandX s) (fun s => s.setReg s.x (s.reg s.x + 1)) s) s

/-- `LDI imm` (R105). -/
def execLdi (imm : Byte) (s : State) : Result :=
  instructionStep 0xF8#8 (fun s => loadImmediate imm s) s

/-- `STR n` (R106). -/
def execStr (n : Nib) (s : State) : Result :=
  instructionStep (joinNibs 0x5#4 n) (fun s => storeAt (s.reg n) s.d id s) s

/-- `STXD` (R107). -/
def execStxd (s : State) : Result :=
  instructionStep 0x73#8 (fun s => storeAt (s.reg s.x) s.d (fun s => s.setReg s.x (s.reg s.x - 1)) s) s

end Sys2Proof.Machine
end

