-- ==== Sys2Proof/Machine/RegisterOps.lean ====
section
/-! DEFINITION. Register operations INC DEC IRX GLO GHI PLO PHI (40_register_ops). None accesses memory in its execute part (R90). -/

namespace Sys2Proof.Machine

/-- `INC n` (R91). -/
def execInc (n : Nib) (s : State) : Result :=
  instructionStep (joinNibs 0x1#4 n) (fun s => .ok (s.setReg n (s.reg n + 1))) s

/-- `DEC n` (R92). -/
def execDec (n : Nib) (s : State) : Result :=
  instructionStep (joinNibs 0x2#4 n) (fun s => .ok (s.setReg n (s.reg n - 1))) s

/-- `IRX` (R93). -/
def execIrx (s : State) : Result :=
  instructionStep 0x60#8 (fun s => .ok (s.setReg s.x (s.reg s.x + 1))) s

/-- `GLO n` (R94). -/
def execGlo (n : Nib) (s : State) : Result :=
  instructionStep (joinNibs 0x8#4 n) (fun s => .ok { s with d := loByte (s.reg n) }) s

/-- `GHI n` (R95). -/
def execGhi (n : Nib) (s : State) : Result :=
  instructionStep (joinNibs 0x9#4 n) (fun s => .ok { s with d := hiByte (s.reg n) }) s

/-- `PLO n` (R96). -/
def execPlo (n : Nib) (s : State) : Result :=
  instructionStep (joinNibs 0xA#4 n) (fun s => .ok (s.setReg n (joinBytes (hiByte (s.reg n)) s.d))) s

/-- `PHI n` (R97). -/
def execPhi (n : Nib) (s : State) : Result :=
  instructionStep (joinNibs 0xB#4 n) (fun s => .ok (s.setReg n (joinBytes s.d (loByte (s.reg n))))) s

end Sys2Proof.Machine
end

