-- ==== Sys2Proof/Machine/ShortBranch.lean ====
section
/-! DEFINITION. The sixteen short branches (44_short_branch). Opcode 0x38 + k tests the negation of 0x30 + k (R145). -/

namespace Sys2Proof.Machine

/-- `BR` (R146). -/
def execBr (addr : Byte) (s : State) : Result :=
  instructionStep 0x30#8 (fun s => shortBranch true addr s) s

/-- `BQ` (R152). -/
def execBq (addr : Byte) (s : State) : Result :=
  instructionStep 0x31#8 (fun s => shortBranch s.q addr s) s

/-- `BZ` (R148). -/
def execBz (addr : Byte) (s : State) : Result :=
  instructionStep 0x32#8 (fun s => shortBranch (dZero s) addr s) s

/-- `BDF` (R150). -/
def execBdf (addr : Byte) (s : State) : Result :=
  instructionStep 0x33#8 (fun s => shortBranch s.df addr s) s

/-- `B1` (R154). -/
def execB1 (addr : Byte) (s : State) : Result :=
  instructionStep 0x34#8 (fun s => shortBranch (ef1 s) addr s) s

/-- `B2` (R155). -/
def execB2 (addr : Byte) (s : State) : Result :=
  instructionStep 0x35#8 (fun s => shortBranch (ef2 s) addr s) s

/-- `B3` (R156). The host's answer is a free value, and one draw is taken. -/
def execB3 (addr : Byte) (s : State) : Result :=
  instructionStep 0x36#8 (fun s => shortBranch (ef3 s) addr s.tookDraw) s

/-- `B4` (R157). -/
def execB4 (addr : Byte) (s : State) : Result :=
  instructionStep 0x37#8 (fun s => shortBranch (ef4 s) addr s) s

/-- `NBR` (R147). -/
def execNbr (addr : Byte) (s : State) : Result :=
  instructionStep 0x38#8 (fun s => shortBranch false addr s) s

/-- `BNQ` (R153). -/
def execBnq (addr : Byte) (s : State) : Result :=
  instructionStep 0x39#8 (fun s => shortBranch (!s.q) addr s) s

/-- `BNZ` (R149). -/
def execBnz (addr : Byte) (s : State) : Result :=
  instructionStep 0x3A#8 (fun s => shortBranch (!dZero s) addr s) s

/-- `BNF` (R151). -/
def execBnf (addr : Byte) (s : State) : Result :=
  instructionStep 0x3B#8 (fun s => shortBranch (!s.df) addr s) s

/-- `BN1` (R158). -/
def execBn1 (addr : Byte) (s : State) : Result :=
  instructionStep 0x3C#8 (fun s => shortBranch (!ef1 s) addr s) s

/-- `BN2` (R159). -/
def execBn2 (addr : Byte) (s : State) : Result :=
  instructionStep 0x3D#8 (fun s => shortBranch (!ef2 s) addr s) s

/-- `BN3` (R160). The host's answer is a free value, and one draw is taken. -/
def execBn3 (addr : Byte) (s : State) : Result :=
  instructionStep 0x3E#8 (fun s => shortBranch (!ef3 s) addr s.tookDraw) s

/-- `BN4` (R161). -/
def execBn4 (addr : Byte) (s : State) : Result :=
  instructionStep 0x3F#8 (fun s => shortBranch (!ef4 s) addr s) s

end Sys2Proof.Machine
end

