-- ==== Sys2Proof/Machine/Dispatch.lean ====
section
/-! DEFINITION. The dispatch: one arm per constructor of Instr, each one direct call of its meaning. The state is that at
the start of the instruction: `R[P]` (or `PC8`) addresses its first byte. -/

namespace Sys2Proof.Machine

def exec (i : Instr) (s : State) : Host.Outcome State Fault Refusal :=
  match i with
  -- register operations (40_register_ops)
  | .inc n => Sys2Proof.Machine.execInc n s
  | .dec n => Sys2Proof.Machine.execDec n s
  | .irx => Sys2Proof.Machine.execIrx s
  | .glo n => Sys2Proof.Machine.execGlo n s
  | .ghi n => Sys2Proof.Machine.execGhi n s
  | .plo n => Sys2Proof.Machine.execPlo n s
  | .phi n => Sys2Proof.Machine.execPhi n s
  -- memory reference (41_memory_reference)
  | .ldn n => Sys2Proof.Machine.execLdn n s
  | .lda n => Sys2Proof.Machine.execLda n s
  | .ldx => Sys2Proof.Machine.execLdx s
  | .ldxa => Sys2Proof.Machine.execLdxa s
  | .ldi imm => Sys2Proof.Machine.execLdi imm s
  | .str n => Sys2Proof.Machine.execStr n s
  | .stxd => Sys2Proof.Machine.execStxd s
  -- logic and shift (42_logic_shift)
  | .or => Sys2Proof.Machine.execOr s
  | .ori imm => Sys2Proof.Machine.execOri imm s
  | .xor => Sys2Proof.Machine.execXor s
  | .xri imm => Sys2Proof.Machine.execXri imm s
  | .and => Sys2Proof.Machine.execAnd s
  | .ani imm => Sys2Proof.Machine.execAni imm s
  | .shr => Sys2Proof.Machine.execShr s
  | .shrc => Sys2Proof.Machine.execShrc s
  | .shl => Sys2Proof.Machine.execShl s
  | .shlc => Sys2Proof.Machine.execShlc s
  -- arithmetic (43_arithmetic)
  | .add => Sys2Proof.Machine.execAdd s
  | .adi imm => Sys2Proof.Machine.execAdi imm s
  | .adc => Sys2Proof.Machine.execAdc s
  | .adci imm => Sys2Proof.Machine.execAdci imm s
  | .sd => Sys2Proof.Machine.execSd s
  | .sdi imm => Sys2Proof.Machine.execSdi imm s
  | .sdb => Sys2Proof.Machine.execSdb s
  | .sdbi imm => Sys2Proof.Machine.execSdbi imm s
  | .sm => Sys2Proof.Machine.execSm s
  | .smi imm => Sys2Proof.Machine.execSmi imm s
  | .smb => Sys2Proof.Machine.execSmb s
  | .smbi imm => Sys2Proof.Machine.execSmbi imm s
  -- short branches (44_short_branch)
  | .br addr => Sys2Proof.Machine.execBr addr s
  | .bq addr => Sys2Proof.Machine.execBq addr s
  | .bz addr => Sys2Proof.Machine.execBz addr s
  | .bdf addr => Sys2Proof.Machine.execBdf addr s
  | .b1 addr => Sys2Proof.Machine.execB1 addr s
  | .b2 addr => Sys2Proof.Machine.execB2 addr s
  | .b3 addr => Sys2Proof.Machine.execB3 addr s
  | .b4 addr => Sys2Proof.Machine.execB4 addr s
  | .nbr skipped => Sys2Proof.Machine.execNbr skipped s
  | .bnq addr => Sys2Proof.Machine.execBnq addr s
  | .bnz addr => Sys2Proof.Machine.execBnz addr s
  | .bnf addr => Sys2Proof.Machine.execBnf addr s
  | .bn1 addr => Sys2Proof.Machine.execBn1 addr s
  | .bn2 addr => Sys2Proof.Machine.execBn2 addr s
  | .bn3 addr => Sys2Proof.Machine.execBn3 addr s
  | .bn4 addr => Sys2Proof.Machine.execBn4 addr s
  -- long branches, long skips, NOP (45_long_branch_skip)
  | .lbr addr => Sys2Proof.Machine.execLbr addr s
  | .lbq addr => Sys2Proof.Machine.execLbq addr s
  | .lbz addr => Sys2Proof.Machine.execLbz addr s
  | .lbdf addr => Sys2Proof.Machine.execLbdf addr s
  | .lbnq addr => Sys2Proof.Machine.execLbnq addr s
  | .lbnz addr => Sys2Proof.Machine.execLbnz addr s
  | .lbnf addr => Sys2Proof.Machine.execLbnf addr s
  | .lskp => Sys2Proof.Machine.execLskp s
  | .lsnq => Sys2Proof.Machine.execLsnq s
  | .lsnz => Sys2Proof.Machine.execLsnz s
  | .lsnf => Sys2Proof.Machine.execLsnf s
  | .lsie => Sys2Proof.Machine.execLsie s
  | .lsq => Sys2Proof.Machine.execLsq s
  | .lsz => Sys2Proof.Machine.execLsz s
  | .lsdf => Sys2Proof.Machine.execLsdf s
  | .nop => Sys2Proof.Machine.execNop s
  -- control (46_control)
  | .idl => Sys2Proof.Machine.execIdl s
  | .sep n => Sys2Proof.Machine.execSep n s
  | .sex n => Sys2Proof.Machine.execSex n s
  | .seq => Sys2Proof.Machine.execSeq s
  | .req => Sys2Proof.Machine.execReq s
  | .sav => Sys2Proof.Machine.execSav s
  | .mark => Sys2Proof.Machine.execMark s
  | .ret => Sys2Proof.Machine.execRet s
  | .dis => Sys2Proof.Machine.execDis s
  -- input and output, the reserved opcode (47_io)
  | .out port => Sys2Proof.Machine.execOut port s
  | .inp port => Sys2Proof.Machine.execInp port s
  | .reserved => Sys2Proof.Machine.execReserved s
  -- CHIP-8 handlers (48_dispatch)
  | .c8Or x y => Sys2Proof.Machine.execC8Or x y s
  | .c8And x y => Sys2Proof.Machine.execC8And x y s
  | .c8Xor x y => Sys2Proof.Machine.execC8Xor x y s
  | .c8ShiftRight x y => Sys2Proof.Machine.execC8ShiftRight x y s
  | .c8ShiftLeft x y => Sys2Proof.Machine.execC8ShiftLeft x y s
  | .c8Draw x y n => Sys2Proof.Machine.execC8Draw x y n s
  | .c8KeyWait x => Sys2Proof.Machine.execC8KeyWait x s
  | .c8Store x => Sys2Proof.Machine.execC8Store x s
  | .c8Load x => Sys2Proof.Machine.execC8Load x s
  | .c8Call nnn => Sys2Proof.Machine.execC8Call nnn s
  | .c8Return => Sys2Proof.Machine.execC8Return s
  | .c8Unmapped op => Sys2Proof.Machine.execC8Unmapped op s

end Sys2Proof.Machine
end

