-- ==== Sys2Proof/Machine/Modes.lean ====
section
/-! DEFINITION. The execution-mode machine (48_dispatch R230 to R236), the timer tick (60_exceptions R280) and the frame
counts (R281, 48_dispatch R242). -/

namespace Sys2Proof.Machine

/-- Apply a function to the state of a next outcome. -/
def mapNext (f : State → State) (o : Result) : Result :=
  match o with
  | .next s => .next (f s)
  | .fault r => .fault r
  | .refused r => .refused r

/-- `setExecMode(m)`: entering `StepOver` records the stack depth; in `Error` the execution stays paused (R230,
60_exceptions R253). -/
def setExecMode (m : ExecMode) (s : State) : State :=
  if s.cpuState = .error then s
  else match m with
    | .stepOver => { s with execMode := .stepOver, stepOverDepth := s.sp8 }
    | .running => { s with execMode := .running }
    | .paused => { s with execMode := .paused }
    | .step => { s with execMode := .step }
    | .stepOut => { s with execMode := .stepOut }

/-- `ModeAfter` (R231 to R235). -/
def modeAfter (wasReturn : Bool) (s : State) : State :=
  match s.execMode with
  | .running => s
  | .paused => s
  | .step => { s with execMode := .paused }
  | .stepOver => if s.sp8 ≤ s.stepOverDepth then { s with execMode := .paused } else s
  | .stepOut => if wasReturn then { s with execMode := .paused } else s

/-- `BreakCheck` at the new `PC8` (R236). -/
def breakCheck (s : State) : State :=
  if s.breakpoints.any (fun b => b.addr == s.pc8) then { s with execMode := .paused } else s

/-- What follows an instruction that did not fault, in `Tick8` (R230). -/
def afterInstruction (wasReturn : Bool) (s : State) : State := breakCheck (modeAfter wasReturn s)

/-- `TimerTick`: a timer at zero stays at zero (60_exceptions R280). A faulted machine does not change (R253). -/
def timerTick (s : State) : State :=
  if s.fault.isSome then s
  else
    { s with
      dt := if s.dt = 0 then s.dt else s.dt - 1,
      st := if s.st = 0 then s.st else s.st - 1,
      frames8 := s.frames8 + 1 }

/-- Begin a frame of the fast path: `IPF` instructions, or a free number when it is unconstrained (48_dispatch R242,
log 10). -/
def beginFrame (s : State) : State :=
  match s.cfg.ipf with
  | some k => { s with frameLeft := some k.val }
  | none => { s with frameLeft := some (Config.frameBudget s.draws), draws := s.draws + 1 }

/-- The end of a frame: its tick (48_dispatch R242). -/
def endFrame (s : State) : State := { timerTick s with frameLeft := none }

/-- A frame in which the machine has become `Paused`: the rest of its instructions do not run, and its tick fires or not
by the parameter (48_dispatch R242, 93_implementation_defined U19, log 10). A faulted machine keeps its state. -/
def pauseFrame (s : State) : State :=
  if s.fault.isNone && s.cfg.engine == .fastPath && s.execMode == .paused && s.frameLeft.isSome then
    (if s.cfg.tickOnPause then endFrame s else { s with frameLeft := none })
  else s

/-- In the backend a frame boundary advances `frames8` (60_exceptions R281). -/
def countFrame (before after : State) : State :=
  { after with
    frames8 := after.frames8 + (if frameNumber after.cycles = frameNumber before.cycles then 0 else 1) }

end Sys2Proof.Machine
end

