-- ==== Sys2Proof/Machine/Shadow.lean ====
section
/-! DEFINITION. `ShadowRefresh` (48_dispatch R239) through the configured `SHADOW_MAP` (R240, log 16, 17, 18). It reads the
RAM array and the scratchpad registers directly, so it cannot fault and costs no cycle. -/

namespace Sys2Proof.Machine

/-- `RAM[index]`; an index outside the array designates nothing and gives a free value (log 17). -/
def ramAt (s : State) (index : Int) : Byte :=
  if 0 ≤ index ∧ index < (Config.ramSize : Int) then s.mem.read index.toNat
  else Config.shadowOutsideRam s.draws index

/-- A one-bit register as a number, and the others of the CDP1802 beside the scratchpad (10_state R23 to R30). -/
def cpuField (s : State) (f : CpuField) : Nat :=
  match f with
  | .d => s.d.toNat
  | .df => s.df.toNat
  | .p => s.p.toNat
  | .x => s.x.toNat
  | .i => s.i.toNat
  | .n => s.n.toNat
  | .t => s.t.toNat
  | .ie => s.ie.toNat
  | .q => s.q.toNat

/-- What a map may read (R239). -/
def shadowView (s : State) : ShadowView :=
  { r := s.r, d := s.d, df := s.df, p := s.p, x := s.x, i := s.i, n := s.n, t := s.t, ie := s.ie, q := s.q, ram := s.mem }

/-- The integer a map entry designates (R240). A designated register number counts modulo 16 (log 16). -/
def shadowValue (s : State) (e : ShadowExpr) : Int :=
  match e with
  | .const k => k
  | .reg n => (s.reg n).toNat
  | .regAt index => (s.reg (BitVec.ofInt 4 (shadowValue s index))).toNat
  | .cpu f => cpuField s f
  | .ram index => (ramAt s (shadowValue s index)).toNat
  | .add a b => shadowValue s a + shadowValue s b
  | .sub a b => shadowValue s a - shadowValue s b
  | .mul a b => shadowValue s a * shadowValue s b
  | .div a b => shadowValue s a / shadowValue s b
  | .mod a b => shadowValue s a % shadowValue s b
  | .param k => Config.shadowParam k (shadowView s)

/-- A byte-wide shadow value. -/
def shadowByte (s : State) (e : ShadowExpr) : Byte := BitVec.ofInt 8 (shadowValue s e)

/-- A shadow address, reduced to its width (log 16). -/
def shadowAddr (w : AddrWidth) (s : State) (e : ShadowExpr) : Addr8 := trim w (BitVec.ofInt 24 (shadowValue s e))

/-- A depth; where the designated value is negative, a free value (log 17). -/
def shadowCount (s : State) (e : ShadowExpr) : Nat :=
  if 0 ≤ shadowValue s e then (shadowValue s e).toNat else Config.shadowDepth s.draws (shadowValue s e)

/-- Copy the designated values into `V`, `I8`, `PC8`, `SP8`, `DT`, `ST` and the designated stack entries (R239). -/
def shadowRefresh (s : State) : State :=
  let map := s.cfg.shadow
  { s.tookDraw with
    v := Vector.ofFn (fun k => shadowByte s (map.v.get k)),
    i8 := shadowAddr s.cfg.iw s map.i8,
    pc8 := shadowAddr s.cfg.space s map.pc8,
    dt := shadowByte s map.dt,
    st := shadowByte s map.st,
    sp8 := shadowCount s map.sp8,
    stack := Vector.ofFn (fun k =>
      if k.val < shadowCount s map.stackCount then shadowAddr s.cfg.space s (map.stack.get k) else s.stack.get k) }

end Sys2Proof.Machine
end

