-- ==== Sys2Proof/Machine/Backend.lean ====
section
/-! DEFINITION. The hardware-accurate backend: `CoreStep` (30_encoding R79), `ExecuteCdp1802` with the re-entry test
(48_dispatch R238), the backend's share of `Tick8` (R230, R237) and the fast-forward of `reset()` (70_reset R307). -/

namespace Sys2Proof.Machine

/-- The byte `k` places after the opcode as the decoder sees it. A byte in no window stands as 0; no meaning uses it: it
faults on that access or does not make it (log 21). -/
def byteAhead (s : State) (k : Word) : Byte :=
  match memRead s (s.pc + k) with
  | .ok b => b
  | .error _ => 0#8

/-- The instruction at `R[P]`, or the fault of its opcode fetch (30_encoding R78, 20_memory R52). -/
def instructionAt (s : State) : Except FaultInfo Instr :=
  match memRead s s.pc with
  | .ok op => .ok (instrOf op (byteAhead s 1) (byteAhead s 2))
  | .error f => .error f

/-- Fetch and run the instruction at `R[P]`. -/
def runInstruction (s : State) : Result :=
  match instructionAt s with
  | .ok i => exec i s
  | .error f => .next (enterFault f s)

/-- `CoreStep` (30_encoding R79), with the frame count of 60_exceptions R281. -/
def coreStep (s : State) : Result :=
  mapNext (countFrame s)
    (match nextCycle s with
      | .dmaIn => .next (dmaInCycle s)
      | .dmaOut => .next (dmaOutCycle s)
      | .interrupt => .next (interruptCycle s)
      | .idle => .next { s with cycles := s.cycles + 1 }
      | .instruction => runInstruction s)

/-- The re-entry test: the `CoreStep` was an instruction, did not fault, and left `R[P] = REENTRY_ADDR` (48_dispatch
R238). -/
def reentered (before after : State) : Bool :=
  after.fault.isNone && nextCycle before == .instruction && after.pc == Config.reentryAddr

/-- What a re-entry does: refresh the shadow state and count a CHIP-8 instruction (48_dispatch R238). -/
def atReentry (s : State) : State := { shadowRefresh s with cycles8 := s.cycles8 + 1 }

/-- `ExecuteCdp1802`: the next state, and whether the re-entry address was reached (48_dispatch R238). -/
def executeCdp1802 (s : State) : Host.Outcome (State × Bool) Fault Refusal :=
  match coreStep s with
  | .next s' => .next (if reentered s s' then atReentry s' else s', reentered s s')
  | .fault r => .fault r
  | .refused r => .refused r

/-- The end of the fast-forward, a fault included: the CHIP-8-level counters restart (70_reset R307). That the output
events of a fast-forward made by running stay in the event list is the model's choice (log 42). -/
def finishFastForward (s : State) : State := { s with phase := .ready, cycles8 := 0, frames8 := 0 }

/-- What follows an `ExecuteCdp1802` made from `before` that answered `after` and `hit`: the fast-forward's stop test
(70_reset R307), or the end of a `Tick8` (48_dispatch R230, R235). -/
def afterExecute (before after : State) (hit : Bool) : State :=
  if after.fault.isSome then
    match before.phase with
    | .fastForward => finishFastForward after
    | .ready => after
  else match before.phase, hit with
    | .fastForward, true => if after.pc8 = after.cfg.startAddr then finishFastForward after else after
    | .fastForward, false => after
    | .ready, true => afterInstruction (decide (after.sp8 < before.sp8)) { after with inTick := false }
    | .ready, false => { after with inTick := true }

/-- The state the fast-forward ends in, by its post-condition (70_reset R307): `R[P] = 0x001B`, `PC8 = START_ADDR`, `V`
all 0, `cpuState` `Normal`; the other shadow values are those of R306; RAM is that of a machine that has just loaded the
program (R302); the CDP1802's other registers, the display bit and the latches are free values, but that a cleared boot
latch stays cleared and the cycle counter only grows (log 42). -/
def readyState (s : State) : State :=
  let e := Config.readyValues s.draws
  finishFastForward
    { { s.tookDraw with r := e.r, p := e.p }.setPc Config.reentryAddr with
      d := e.d, df := e.df, x := e.x, i := e.i, n := e.n, t := e.t, ie := e.ie, q := e.q, idle := e.idle,
      cycles := s.cycles + e.cycles, displayEnabled := e.displayEnabled, bootLatch := s.bootLatch && e.bootLatch,
      keyLatch := e.keyLatch, v := Vector.replicate 16 0, i8 := 0,
      pc8 := s.cfg.startAddr, sp8 := 0, dt := 0, st := 0, cpuState := .normal }

/-- Is the fast-forward made by its post-condition, in one step (log 42). -/
def takesPostCondition (s : State) : Bool := s.phase == .fastForward && s.cfg.fastForward == .postCondition

/-- One step of the backend. -/
def backendStep (s : State) : Result :=
  if takesPostCondition s then .next (readyState s)
  else match executeCdp1802 s with
    | .next r => .next (afterExecute s r.1 r.2)
    | .fault r => .fault r
    | .refused r => .refused r

/-! ## The unbounded loops of the source, with fuel (93_implementation_defined U13, log 33) -/

/-- `BackendInstr` (48_dispatch R237): `ExecuteCdp1802` until re-entry or a fault. -/
def backendInstr (fuel : Nat) (s : State) : Result :=
  match fuel with
  | 0 => .refused .fuelSpent
  | k + 1 =>
    match executeCdp1802 s with
    | .next (s', hit) => if hit || s'.fault.isSome then .next s' else backendInstr k s'
    | .fault r => .fault r
    | .refused r => .refused r

/-- `Tick8` of the backend as a whole (48_dispatch R230). -/
def tick8Backend (fuel : Nat) (s : State) : Result :=
  if s.cpuState = .error ∨ s.execMode = .paused then .next s
  else match backendInstr fuel s with
    | .next s' =>
      .next (if s'.cpuState = .error then s' else afterInstruction (decide (s'.sp8 < s.sp8)) s')
    | .fault r => .fault r
    | .refused r => .refused r

/-- `FastForward` as it runs (70_reset R307). -/
def fastForward (fuel : Nat) (s : State) : Result :=
  match fuel with
  | 0 => .refused .fuelSpent
  | k + 1 =>
    match executeCdp1802 s with
    | .next (s', hit) =>
      if s'.fault.isSome then .next (finishFastForward s')
      else if hit && s'.pc8 == s'.cfg.startAddr then .next (finishFastForward s')
      else fastForward k s'
    | .fault r => .fault r
    | .refused r => .refused r

end Sys2Proof.Machine
end

