-- ==== Sys2Proof/Machine/FastPath.lean ====
section
/-! DEFINITION. The fast-path engine: `FastStep` (48_dispatch R219), `Tick8` (R230), and the frames that put a
`TimerTick` after every `IPF` instructions (R242). -/

namespace Sys2Proof.Machine

/-- Run the handler `T[op]` (48_dispatch R210, R219): a parameter handler directly, any other through its instruction. -/
def dispatchOpcode (op : Word) (s : State) : Result :=
  match handlerAt s.cfg.table op with
  | .param k => runHandler (.param k) op s
  | h => exec (h.instr op) s

/-- `FastStep` (48_dispatch R219). -/
def fastStep (s : State) : Result := dispatchOpcode (fetchOpcode s) s

/-- The `return` opcode on which `StepOut` pauses (48_dispatch R235). -/
def isReturnOpcode (op : Word) : Bool := op == 0x00EE#16

/-- What follows a `FastStep` in `Tick8` (48_dispatch R230). -/
def afterFastStep (op : Word) (s : State) : State :=
  if s.cpuState = .error then s else afterInstruction (isReturnOpcode op) s

/-- `Tick8` of the fast path (48_dispatch R230). -/
def tick8 (s : State) : Result :=
  if s.cpuState = .error ∨ s.execMode = .paused then .next s
  else mapNext (afterFastStep (fetchOpcode s)) (fastStep s)

/-- One instruction of the frame has run; a faulted machine keeps its state (60_exceptions R251). -/
def countDown (left : Nat) (s : State) : State :=
  if s.fault.isSome then s else { s with frameLeft := some left }

/-- What follows a `Tick8` with `left` more to run in its frame. -/
def afterTick8 (left : Nat) (s : State) : State := pauseFrame (countDown left s)

/-- One step of the fast path: a frame begins, its next instruction runs, or its tick ends it (48_dispatch R242). -/
def fastPathStep (s : State) : Result :=
  match s.frameLeft with
  | none => .next (beginFrame s)
  | some 0 => .next (endFrame s)
  | some (k + 1) => mapNext (afterTick8 k) (tick8 s)

end Sys2Proof.Machine
end

