-- ==== Sys2Proof/Machine/HostCalls.lean ====
section
/-! DEFINITION. What the host does to the block (00_scope R7 (3)): `reset()` (70_reset R300 to R306), the load before it
(20_memory R68), the execution mode, the breakpoints (10_state R49). -/

namespace Sys2Proof.Machine

/-- The size of the memory a program is loaded into: `RAM_SIZE` in the backend, `MEM_SIZE` in the fast path (20_memory
R68). -/
def loadableSize (c : QuirkConfig) : Nat :=
  match c.engine with
  | .hardware => Config.ramSize
  | .fastPath => c.memSize

/-- Memory after `reset()` with a program: the reset image, the program from `LOAD_OFFSET` truncated to what fits, 0x00
elsewhere (70_reset R302, 20_memory R68). -/
def resetMemory (c : QuirkConfig) (program : List Byte) : Memory :=
  Memory.writeList [] Config.loadOffset (program.take (loadableSize c - Config.loadOffset))

/-- The CDP1802's reset (70_reset R301). `R[1]`..`R[15]`, `D`, `DF`, `T` are not changed; without the boot latch
`R[1].1` is assumed to hold 0x0F (R303, log 32). -/
def resetCpu (s : State) : State :=
  let s := { s.setReg 0 0 with i := 0, n := 0, q := false, ie := true, x := 0, p := 0, idle := false }
  if s.cfg.hasBootLatch then s else s.setReg 1 (joinBytes 0x0F#8 (loByte (s.reg 1)))

/-- The CDP1861's and the platform's reset (70_reset R304), with memory (R302). -/
def resetPlatform (s : State) : State :=
  { s with
    displayEnabled := false, cycles := 0, bootLatch := s.cfg.hasBootLatch, fault := none,
    mem := resetMemory s.cfg s.program, pad := Memory.unlisted 0, events := [] }

/-- The CHIP-8 level's reset (70_reset R306). -/
def resetChip8 (s : State) : State :=
  { s with
    v := Vector.replicate 16 0, pc8 := s.cfg.startAddr, i8 := 0, sp8 := 0, dt := 0, st := 0, cycles8 := 0, frames8 := 0,
    clears8 := 0, cpuState := .normal, execMode := .paused, stepOverDepth := 0 }

/-- `reset()` (70_reset R300) up to its fast-forward, which the following steps make in the backend (R307). -/
def hostReset (s : State) : State :=
  { resetChip8 (resetPlatform (resetCpu s)) with
    phase := (match s.cfg.engine with | .hardware => .fastForward | .fastPath => .ready),
    inTick := false, frameLeft := none, draws := s.draws + 1 }

/-- Put an entry into a map kept by rising address, in the place of an entry of the same address. -/
def insertBreakpoint (b : Breakpoint) (map : List Breakpoint) : List Breakpoint :=
  match map with
  | [] => [b]
  | c :: rest =>
    if b.addr < c.addr then b :: c :: rest
    else if b.addr = c.addr then b :: rest
    else c :: insertBreakpoint b rest

/-- `setBreakpoint` (10_state R49, log 27). On a faulted machine it has no effect (60_exceptions R253). -/
def setBreakpoint (b : Breakpoint) (s : State) : State :=
  if s.fault.isSome then s else { s with breakpoints := insertBreakpoint b s.breakpoints }

/-- `removeBreakpoint`. On a faulted machine it has no effect (60_exceptions R253). -/
def removeBreakpoint (a : Addr8) (s : State) : State :=
  if s.fault.isSome then s else { s with breakpoints := s.breakpoints.filter (fun b => b.addr != a) }

/-- `findBreakpoint`: the entry of an address. -/
def findBreakpoint (a : Addr8) (s : State) : Option Breakpoint := s.breakpoints.find? (fun b => b.addr == a)

/-- Enumerate by index: the `k`-th entry by rising address (log 27). -/
def breakpointAt (k : Nat) (s : State) : Option Breakpoint := s.breakpoints[k]?

/-- `numBreakpoints`. -/
def numBreakpoints (s : State) : Nat := s.breakpoints.length

/-- A host call's effect. -/
def applyAction (a : HostAction) (s : State) : State :=
  match a with
  | .reset => hostReset s
  | .loadAndReset image => hostReset { s with program := image }
  | .setExecMode m => pauseFrame (setExecMode m s)
  | .setBreakpoint b => setBreakpoint b s
  | .removeBreakpoint a => removeBreakpoint a s

/-- When a host call lands: a mode change between two CHIP-8 instructions only (48_dispatch R232), or on a faulted
machine; any other call between two steps. On a faulted machine the calls other than `reset()` are taken without an
effect (60_exceptions R253, log 13). -/
def mayLand (a : HostAction) (s : State) : Bool :=
  match a with
  | .setExecMode _ => s.fault.isSome || (!s.inTick && s.phase == .ready)
  | .reset => true
  | .loadAndReset _ => true
  | .setBreakpoint _ => true
  | .removeBreakpoint _ => true

/-- The state after the oldest pending host call, if there is one and it may land now. Calls land in the order made: that
a call, `reset()` too, waits behind an older one that may not land yet is the model's choice (log 13). -/
def takeAction (s : State) : Option State :=
  match s.inbox with
  | [] => none
  | a :: rest => if mayLand a s then some (applyAction a { s with inbox := rest }) else none

end Sys2Proof.Machine
end

