-- ==== Sys2Proof/Machine/Scheduler.lean ====
section
/-! DEFINITION. One step of the block, and how a program word is placed so that the next step runs it. -/

namespace Sys2Proof.Machine

/-- Does the execution-mode machine hold instructions back (48_dispatch R230, R232). The fast-forward of `reset()` runs
whatever the mode (70_reset R307). -/
def held (s : State) : Bool :=
  (s.execMode == .paused || s.cpuState == .error) &&
    (match s.cfg.engine with
      | .hardware => s.phase == .ready
      | .fastPath => true)

/-- A step of the machine itself, no host call being taken. A faulted machine is final (60_exceptions R253, log 11); a
held machine keeps its state (48_dispatch R232). -/
def runStep (s : State) : Result :=
  match s.fault with
  | some f => .fault (.halted f)
  | none =>
    if held s then .next s
    else match s.cfg.engine with
      | .hardware => backendStep s
      | .fastPath => fastPathStep s

/-- One step: the oldest host call if it may land, or else the machine (log 2, log 13). -/
def machineStep (s : State) : Result :=
  match takeAction s with
  | some s' => .next s'
  | none => runStep s

/-! ## Placing a program word (log 15) -/

/-- Nothing that would keep an instruction from running next: no pending host call, no fault, not paused. -/
def unblocked (s : State) : State :=
  { s with
    inbox := [], fault := none, cpuState := if s.cpuState = .error then .normal else s.cpuState,
    execMode := if s.execMode = .paused then .running else s.execMode }

/-- Where a word is placed: at the program counter if all of it fits in RAM from `LOAD_OFFSET` on, else at
`LOAD_OFFSET`. -/
def placeFor (pc limit : Nat) : Nat :=
  if Config.loadOffset ≤ pc ∧ pc + 3 ≤ limit then pc else Config.loadOffset

/-- Place CDP1802 bytes: the boot latch is cleared so that RAM is fetched, the display is off so that no request comes
first, the core is not idle. -/
def place1802 (bytes : List Byte) (s : State) : State :=
  let a := placeFor s.pc.toNat Config.ramSize
  let s := { s with cfg := { s.cfg with engine := .hardware } }
  let s := unblocked { s with phase := .ready }
  { s.setPc (BitVec.ofNat 16 a) with
    bootLatch := false, idle := false, displayEnabled := false, mem := s.mem.writeList a bytes }

/-- Place a CHIP-8 opcode: the engine is the fast path with the families the source names, a frame has an instruction
left. -/
def placeChip8 (bytes : List Byte) (s : State) : State :=
  let a := placeFor s.pc8.toNat s.cfg.memSize
  { unblocked s with
    cfg := { s.cfg with engine := .fastPath, table := sourceFamilies }, phase := .ready, inTick := false,
    frameLeft := some (s.frameLeft.getD 0 + 1), pc8 := BitVec.ofNat 24 a, mem := s.mem.writeList a bytes }

/-- Place a table word of `nbits` bits. -/
def placeWord (s : State) (nbits w : Nat) : State :=
  match tableBytes nbits w with
  | (.hardware, bytes) => place1802 bytes s
  | (.fastPath, bytes) => placeChip8 bytes s

end Sys2Proof.Machine
end

