-- ==== Sys2Proof/Safety.lean ====
section
/-! DEFINITION. What claims call a good state and a safe run. -/

namespace Sys2Proof.Machine

/-- The fault record and `cpuState` agree, and a faulted machine is paused (10_state R33; 60_exceptions R251). -/
def State.Coherent (s : State) : Prop :=
  (s.fault.isSome ↔ s.cpuState = .error) ∧ (s.fault.isSome → s.execMode = .paused)

/-- Memory is in canonical form and lists only addresses of the instance's memory (20_memory R50, R67). -/
def State.MemoryGood (s : State) : Prop :=
  Memory.wf s.mem ∧ ∀ c ∈ s.mem, c.1 < loadableSize s.cfg

/-- The safety pad mirrors the first byte of the fast path's memory (20_memory R67). -/
def State.PadGood (s : State) : Prop := s.cfg.engine = .fastPath → s.pad = s.mem.read 0

/-- A CHIP-8 address fits a width. -/
def Fits (w : AddrWidth) (a : Addr8) : Prop := a.toNat < 2 ^ w.bits

/-- `I8`, `PC8` and the stack entries fit their widths, and so does the configured start address (10_state R41 to R43). -/
def State.WidthsGood (s : State) : Prop :=
  Fits s.cfg.space s.cfg.startAddr ∧ Fits s.cfg.iw s.i8 ∧ Fits s.cfg.space s.pc8 ∧
    ∀ k, k < 16 → Fits s.cfg.space (s.stackAt k)

/-- `SP8` stays in the range of the stack policy in the fast path (48_dispatch R222). -/
def State.DepthGood (s : State) : Prop :=
  s.cfg.engine = .fastPath →
    match s.cfg.stackPolicy with
    | .error => s.sp8 ≤ 16
    | .cyclic => s.sp8 < 16

/-- The backend never waits for a key (48_dispatch R239). -/
def State.NoWaitInBackend (s : State) : Prop := s.cfg.engine = .hardware → s.cpuState ≠ .waiting

/-- The `BreakpointMap` has one entry per address, by rising address (10_state R49, log 27). -/
def State.BreakpointsGood (s : State) : Prop := s.breakpoints.Pairwise (fun a b => a.addr < b.addr)

/-- A good state. -/
structure State.Good (s : State) : Prop where
  coherent : s.Coherent
  memory   : s.MemoryGood
  pad      : s.PadGood
  widths   : s.WidthsGood
  depth    : s.DepthGood
  noWait   : s.NoWaitInBackend
  breaks   : s.BreakpointsGood

/-- A safe run of `k` steps: it ends in a next state whose fault record is empty. -/
def SafeRun (k : Nat) (s : State) : Prop := ∃ t, core.run k s = .next t ∧ t.fault = none

end Sys2Proof.Machine
end

