-- ==== Sys2Proof/Certificates/Slice0/Obligations.lean ====
section
/-! DEFINITION. The statements for the provers. Each says which rule of spec/ it formalises. The vocabulary at the head
says what an instruction leaves alone. -/

namespace Sys2Proof.Slice0

open Sys2Proof.Machine

/-! ## Vocabulary -/

/-- The instruction answers a next state of which `P` holds. -/
def Gives (i : Instr) (s : State) (P : State → Prop) : Prop := ∃ t, exec i s = .next t ∧ P t

/-- The instruction takes the fault `f`: everything is as before but the record, `cpuState`, `execMode` and the model's
own `inTick` (60_exceptions R251; log 2). -/
def Faults (i : Instr) (s : State) (f : FaultInfo) : Prop :=
  exec i s = .next { s with fault := some f, cpuState := .error, execMode := .paused, inTick := false }

/-- `R[k]` after `R[P]` has stepped over `c` bytes. -/
def stepped (s : State) (c : Word) (k : Nib) : Word := if k = s.p then s.reg k + c else s.reg k

/-- The CHIP-8-level state is as before. -/
structure Chip8Same (s t : State) : Prop where
  v : t.v = s.v
  i8 : t.i8 = s.i8
  pc8 : t.pc8 = s.pc8
  stack : t.stack = s.stack
  sp8 : t.sp8 = s.sp8
  dt : t.dt = s.dt
  st : t.st = s.st
  cycles8 : t.cycles8 = s.cycles8
  frames8 : t.frames8 = s.frames8
  clears8 : t.clears8 = s.clears8
  execMode : t.execMode = s.execMode
  cpuState : t.cpuState = s.cpuState

/-- What neither engine's instructions write: the fault record (a fault entry apart), the configuration, the host's and
the scheduler's fields. -/
structure BlockSame (s t : State) : Prop where
  fault : t.fault = s.fault
  stepOverDepth : t.stepOverDepth = s.stepOverDepth
  breakpoints : t.breakpoints = s.breakpoints
  cfg : t.cfg = s.cfg
  program : t.program = s.program
  phase : t.phase = s.phase
  inTick : t.inTick = s.inTick
  frameLeft : t.frameLeft = s.frameLeft
  inbox : t.inbox = s.inbox

/-- `P`, `X`, `T`, `IE`, `Q` and the idle bit are as before. -/
structure ControlSame (s t : State) : Prop where
  p : t.p = s.p
  x : t.x = s.x
  tReg : t.t = s.t
  ie : t.ie = s.ie
  q : t.q = s.q
  idle : t.idle = s.idle

/-- The display bit, the two latches and the output events are as before. -/
structure DevicesSame (s t : State) : Prop where
  displayEnabled : t.displayEnabled = s.displayEnabled
  bootLatch : t.bootLatch = s.bootLatch
  keyLatch : t.keyLatch = s.keyLatch
  events : t.events = s.events

/-- Every byte of memory reads as before. -/
def MemSame (s t : State) : Prop := t.pad = s.pad ∧ ∀ a, t.mem.read a = s.mem.read a

/-- A write to the address `a` may go through: it lands in RAM, or in ROM under the policy `ignore`. -/
def Writable (s : State) (a : Word) : Prop :=
  inRam (effAddr s a).toNat = true ∨ (inRom (effAddr s a).toNat = true ∧ s.cfg.romWrite = .ignore)

/-- The byte `v` was stored at `a`: in RAM it reads back and every other byte is as before; in ROM nothing changes. -/
def Stored (s t : State) (a : Word) (v : Byte) : Prop :=
  t.pad = s.pad ∧
  (inRam (effAddr s a).toNat = true →
    t.mem.read (effAddr s a).toNat = v ∧ ∀ b, b ≠ (effAddr s a).toNat → t.mem.read b = s.mem.read b) ∧
  (inRam (effAddr s a).toNat = false → ∀ b, t.mem.read b = s.mem.read b)

/-- A CDP1802 instruction with opcode `op` ran to its end in `cyc` machine cycles and took `draws` free values; the
CHIP-8 level and the block's own fields are as before. -/
structure Ran (op : Byte) (cyc draws : Nat) (s t : State) : Prop where
  i : t.i = hiNib op
  n : t.n = loNib op
  cycles : t.cycles = s.cycles + cyc
  draws : t.draws = s.draws + draws
  chip8 : Chip8Same s t
  block : BlockSame s t

/-- It wrote registers only: `D`, `DF`, the control bits, the devices and memory are as before. -/
structure OnlyRegs (s t : State) : Prop where
  d : t.d = s.d
  df : t.df = s.df
  control : ControlSame s t
  devices : DevicesSame s t
  mem : MemSame s t

/-- It wrote `D` (and registers) only. -/
structure OnlyD (s t : State) : Prop where
  df : t.df = s.df
  control : ControlSame s t
  devices : DevicesSame s t
  mem : MemSame s t

/-- It wrote `D` and `DF` (and registers) only. -/
structure OnlyDDf (s t : State) : Prop where
  control : ControlSame s t
  devices : DevicesSame s t
  mem : MemSame s t

/-- The CDP1802, the CDP1861 and the platform latches are as before. -/
structure CpuSame (s t : State) : Prop where
  r : t.r = s.r
  d : t.d = s.d
  df : t.df = s.df
  i : t.i = s.i
  n : t.n = s.n
  cycles : t.cycles = s.cycles
  control : ControlSame s t
  devices : DevicesSame s t

/-- A CHIP-8 instruction ran: it counted once and took `draws` free values; the CDP1802 side, the timers, the other
counters, the mode and the block's own fields are as before. -/
structure Ran8 (draws : Nat) (s t : State) : Prop where
  cpu : CpuSame s t
  block : BlockSame s t
  cycles8 : t.cycles8 = s.cycles8 + 1
  draws : t.draws = s.draws + draws
  dt : t.dt = s.dt
  st : t.st = s.st
  frames8 : t.frames8 = s.frames8
  clears8 : t.clears8 = s.clears8
  execMode : t.execMode = s.execMode

/-- `PC8` moved on by two, modulo its width. -/
def NextOpcode (s t : State) : Prop := t.pc8.toNat = (s.pc8.toNat + 2) % 2 ^ s.cfg.space.bits

/-- The return stack and its depth are as before. -/
def StackSame (s t : State) : Prop := t.stack = s.stack ∧ t.sp8 = s.sp8

/-- What address `a` reads as after `writes`, made in order at masked addresses, when it read as `old` before. -/
def lastWritten (size : Nat) (writes : List (Nat × Byte)) (a : Nat) (old : Byte) : Byte :=
  writes.foldl (fun b w => if w.1 % size = a then w.2 else b) old

/-- A parameter handler that answers `e` was run in `s` and left `t` (48_dispatch R220; the form of what it may answer is
the model's, log 19): its fault taken, or its values, with addresses reduced to their widths, the depth to its range, and
its bytes written in order. -/
def CommitsHandler (e : HandlerEffect) (s t : State) : Prop :=
  CpuSame s t ∧ t.cfg = s.cfg ∧
  match e.raised with
  | some f => t = { s with fault := some f, cpuState := .error, execMode := .paused, inTick := false }
  | none => BlockSame s t ∧ t.draws = s.draws + 1 ∧ t.v = e.v ∧ t.i8.toNat = e.i8.toNat % 2 ^ s.cfg.iw.bits ∧
      t.pc8.toNat = e.pc8.toNat % 2 ^ s.cfg.space.bits ∧
      (∀ k : Fin 16, (t.stack.get k).toNat = (e.stack.get k).toNat % 2 ^ s.cfg.space.bits) ∧
      (s.cfg.stackPolicy = .error → t.sp8 = min e.sp8 16) ∧ (s.cfg.stackPolicy = .cyclic → t.sp8 = e.sp8 % 16) ∧
      t.dt = e.dt ∧ t.st = e.st ∧ t.cycles8 = e.cycles8 ∧ t.frames8 = e.frames8 ∧ t.clears8 = e.clears8 ∧
      t.execMode = e.execMode ∧ t.cpuState = (if e.waiting then .waiting else .normal) ∧
      (∀ a, t.mem.read a = lastWritten s.cfg.memSize e.writes a (s.mem.read a)) ∧
      t.pad = (if ∃ w ∈ e.writes, w.1 % s.cfg.memSize = 0 then t.mem.read 0 else s.pad)

/-- `D` and `DF` after `u + v + c` (43_arithmetic R125). -/
def SumResult (u v : Byte) (c : Bool) (t : State) : Prop :=
  t.d.toNat = (u.toNat + v.toNat + c.toNat) % 256 ∧ (t.df = true ↔ 256 ≤ u.toNat + v.toNat + c.toNat)

/-- `D` and `DF` after `u - v` with carry-in `c` (43_arithmetic R125). -/
def DifferenceResult (u v : Byte) (c : Bool) (t : State) : Prop :=
  (t.d.toNat : Int) = ((u.toNat : Int) - v.toNat - (1 - c.toNat)) % 256 ∧
    (t.df = true ↔ v.toNat + (1 - c.toNat) ≤ u.toNat)

/-- One row of a branch table: the instruction of an operand, its opcode, its condition, the free values it takes. -/
structure Branch (α : Type) where
  instr : α → Instr
  op : Byte
  cond : Bool
  draws : Nat

/-- The sixteen short branches with their conditions (44_short_branch R146 to R161, 10_state R36). -/
def shortBranches (s : State) : List (Branch Byte) :=
  let efx := (76 ≤ videoLine (s.cycles + 1) && videoLine (s.cycles + 1) ≤ 79) ||
    (204 ≤ videoLine (s.cycles + 1) && videoLine (s.cycles + 1) ≤ 207)
  let key := Config.isKeyDown s.draws (s.cycles + 1) s.keyLatch
  [ ⟨.br, 0x30, true, 0⟩, ⟨.bq, 0x31, s.q, 0⟩, ⟨.bz, 0x32, decide (s.d = 0), 0⟩, ⟨.bdf, 0x33, s.df, 0⟩,
    ⟨.b1, 0x34, efx, 0⟩, ⟨.b2, 0x35, false, 0⟩, ⟨.b3, 0x36, key, 1⟩, ⟨.b4, 0x37, false, 0⟩,
    ⟨.nbr, 0x38, false, 0⟩, ⟨.bnq, 0x39, !s.q, 0⟩, ⟨.bnz, 0x3A, decide (s.d ≠ 0), 0⟩, ⟨.bnf, 0x3B, !s.df, 0⟩,
    ⟨.bn1, 0x3C, !efx, 0⟩, ⟨.bn2, 0x3D, true, 0⟩, ⟨.bn3, 0x3E, !key, 1⟩, ⟨.bn4, 0x3F, true, 0⟩ ]

/-- The seven long branches with their conditions (45_long_branch_skip R166 to R172). -/
def longBranches (s : State) : List (Branch Word) :=
  [ ⟨.lbr, 0xC0, true, 0⟩, ⟨.lbq, 0xC1, s.q, 0⟩, ⟨.lbz, 0xC2, decide (s.d = 0), 0⟩, ⟨.lbdf, 0xC3, s.df, 0⟩,
    ⟨.lbnq, 0xC9, !s.q, 0⟩, ⟨.lbnz, 0xCA, decide (s.d ≠ 0), 0⟩, ⟨.lbnf, 0xCB, !s.df, 0⟩ ]

/-- The eight long skips and NOP with their conditions (45_long_branch_skip R174 to R182). -/
def longSkips (s : State) : List (Branch Unit) :=
  [ ⟨fun _ => .lskp, 0xC8, true, 0⟩, ⟨fun _ => .lsnq, 0xC5, !s.q, 0⟩, ⟨fun _ => .lsnz, 0xC6, decide (s.d ≠ 0), 0⟩,
    ⟨fun _ => .lsnf, 0xC7, !s.df, 0⟩, ⟨fun _ => .lsie, 0xCC, s.ie, 0⟩, ⟨fun _ => .lsq, 0xCD, s.q, 0⟩,
    ⟨fun _ => .lsz, 0xCE, decide (s.d = 0), 0⟩, ⟨fun _ => .lsdf, 0xCF, s.df, 0⟩, ⟨fun _ => .nop, 0xC4, false, 0⟩ ]

/-- `Length(op)`, as 30_encoding R73 writes it. -/
def specLength (op : Byte) : Nat :=
  if op.extractLsb' 4 4 = 0xC#4 ∧ (op.extractLsb' 0 4).toNat ∈ [0x0, 0x1, 0x2, 0x3, 0x9, 0xA, 0xB] then 3
  else if op.extractLsb' 4 4 = 0x3#4 then 2
  else if op.toNat ∈ [0x7C, 0x7D, 0x7F] then 2
  else if op.extractLsb' 4 4 = 0xF#4 ∧ (op.extractLsb' 0 4).toNat ∈ [0x8, 0x9, 0xA, 0xB, 0xC, 0xD, 0xF] then 2
  else 1

/-- The number of 1 bits (00_scope R9). -/
def popcount (w : Word) : Nat := ((List.range 16).filter (fun k => w.getLsbD k)).length

end Sys2Proof.Slice0

open Sys2Proof Sys2Proof.Machine Sys2Proof.Slice0

/-! ## Encoding and decoding -/

/-- Decoding an encoded well-formed instruction gives it back, with the bytes after it, for all 92 constructors and every
operand (30_encoding R71, R74; 48_dispatch R215, R216). -/
def Obligations.EncodeThenDecodeGivesTheInstruction : Prop :=
  ∀ (i : Instr) (rest : List Byte), i.wf = true → decode i.engine (encode i ++ rest) = .ok (i, rest)

/-- What decodes is a well-formed instruction of that engine, and its encoding is the bytes decoded: each byte string has
one meaning. -/
def Obligations.DecodedBytesAreTheEncoding : Prop :=
  ∀ (e : Engine) (bytes rest : List Byte) (i : Instr), decode e bytes = .ok (i, rest) →
    i.engine = e ∧ i.wf = true ∧ encode i ++ rest = bytes

/-- An instruction decodes exactly when `Length(op)` bytes are there, and takes that many (30_encoding R73). -/
def Obligations.DecodeTakesLengthBytes : Prop :=
  ∀ (op : Byte) (tail : List Byte),
    (∀ i rest, decode1802 (op :: tail) = .ok (i, rest) → rest.length + specLength op = tail.length + 1) ∧
    ((∃ i rest, decode1802 (op :: tail) = .ok (i, rest)) ↔ specLength op ≤ tail.length + 1)

/-- Words written out from the spec's encodings decode to their instructions, one of each family at least (30_encoding
R71, R74; 48_dispatch R215). -/
def Obligations.SpecWordsDecode : Prop :=
  decode1802 [0b00010101#8] = .ok (.inc 5, []) ∧ decode1802 [0b11111000#8, 0x1B#8] = .ok (.ldi 0x1B, []) ∧
  decode1802 [0b01010001#8] = .ok (.str 1, []) ∧ decode1802 [0b11111110#8, 0x00#8] = .ok (.shl, [0x00#8]) ∧
  decode1802 [0b01111101#8, 0x10#8] = .ok (.sdbi 0x10, []) ∧ decode1802 [0b00111110#8, 0x44#8] = .ok (.bn3 0x44, []) ∧
  decode1802 [0b11000000#8, 0x01#8, 0xFC#8] = .ok (.lbr 0x01FC, []) ∧ decode1802 [0b11001100#8] = .ok (.lsie, []) ∧
  decode1802 [0b01111001#8] = .ok (.mark, []) ∧ decode1802 [0b01101001#8] = .ok (.inp 1, []) ∧
  decode1802 [0b01101000#8] = .ok (.reserved, []) ∧ decode1802 [0b00000000#8] = .ok (.idl, []) ∧
  decodeChip8 [0x8A#8, 0xB6#8] = .ok (.c8ShiftRight 0xA 0xB, []) ∧
  decodeChip8 [0xF2#8, 0x55#8] = .ok (.c8Store 2, []) ∧ decodeChip8 [0x2A#8, 0xBC#8] = .ok (.c8Call 0xABC, []) ∧
  decodeChip8 [0xFF#8, 0xFF#8] = .ok (.c8Unmapped 0xFFFF, [])

/-- An `on` call whose precondition holds writes exactly `2 ^ popcount(~mask)` of the 65536 slots (48_dispatch R212,
R213 (a)). -/
def Obligations.OnCallWritesTwoToTheFreeBitsSlots : Prop :=
  ∀ c : OnCall, c.pattern &&& ~~~c.mask = 0 →
    ((List.range 65536).filter (fun op => c.hits (BitVec.ofNat 16 op))).length = 2 ^ popcount (~~~c.mask)

/-- Two `on` calls whose preconditions hold share no slot exactly when `(p1 ^ p2) & m1 & m2` is not 0 (48_dispatch R213
(b)). -/
def Obligations.DisjointFamiliesTest : Prop :=
  ∀ c1 c2 : OnCall, c1.pattern &&& ~~~c1.mask = 0 → c2.pattern &&& ~~~c2.mask = 0 →
    ((¬ ∃ op, c1.hits op = true ∧ c2.hits op = true) ↔ (c1.pattern ^^^ c2.pattern) &&& c1.mask &&& c2.mask ≠ 0)

/-- The table starts with the invalid-opcode handler in every slot; a call replaces the slots it hits and no others; a
call whose precondition fails is refused (48_dispatch R211, R212; filling the table beforehand is the spec's own reading,
D19, and the refused call is log 23). -/
def Obligations.TableBuiltCallByCall : Prop :=
  (∀ op, handlerAt [] op = .invalid) ∧
  (∀ (table : List OnCall) (c : OnCall) (op : Word), c.pattern &&& ~~~c.mask = 0 →
    ∃ table', onCall table c = some table' ∧
      handlerAt table' op = if op &&& c.mask = c.pattern then c.handler else handlerAt table op) ∧
  (∀ (table : List OnCall) (c : OnCall), c.pattern &&& ~~~c.mask ≠ 0 → onCall table c = none)

/-! ## Register operations -/

/-- INC, DEC and IRX: the named register, or the one `X` selects, moves by one modulo 2^16, after the fetch has advanced
`R[P]`; no flag, no memory (40_register_ops R91, R92, R93). -/
def Obligations.IncrementAndDecrement : Prop :=
  ∀ (s : State) (n : Nib),
    Gives (.inc n) s (fun t => Ran (0x1#4 ++ n) 2 0 s t ∧ OnlyRegs s t ∧
      ∀ k, t.reg k = stepped s 1 k + (if k = n then 1 else 0)) ∧
    Gives (.dec n) s (fun t => Ran (0x2#4 ++ n) 2 0 s t ∧ OnlyRegs s t ∧
      ∀ k, t.reg k = stepped s 1 k - (if k = n then 1 else 0)) ∧
    Gives .irx s (fun t => Ran 0x60 2 0 s t ∧ OnlyRegs s t ∧
      ∀ k, t.reg k = stepped s 1 k + (if k = s.x then 1 else 0))

/-- GLO and GHI: `D` takes a byte of the register (40_register_ops R94, R95). -/
def Obligations.GetRegisterBytes : Prop :=
  ∀ (s : State) (n : Nib),
    Gives (.glo n) s (fun t => Ran (0x8#4 ++ n) 2 0 s t ∧ OnlyD s t ∧ (∀ k, t.reg k = stepped s 1 k) ∧
      t.d.toNat = (stepped s 1 n).toNat % 256) ∧
    Gives (.ghi n) s (fun t => Ran (0x9#4 ++ n) 2 0 s t ∧ OnlyD s t ∧ (∀ k, t.reg k = stepped s 1 k) ∧
      t.d.toNat = (stepped s 1 n).toNat / 256)

/-- PLO and PHI: a byte of the register takes `D`, the other byte and `D` stay (40_register_ops R96, R97). -/
def Obligations.PutRegisterBytes : Prop :=
  ∀ (s : State) (n : Nib),
    Gives (.plo n) s (fun t => Ran (0xA#4 ++ n) 2 0 s t ∧ OnlyRegs s t ∧ (∀ k, k ≠ n → t.reg k = stepped s 1 k) ∧
      (t.reg n).toNat = (stepped s 1 n).toNat / 256 * 256 + s.d.toNat) ∧
    Gives (.phi n) s (fun t => Ran (0xB#4 ++ n) 2 0 s t ∧ OnlyRegs s t ∧ (∀ k, k ≠ n → t.reg k = stepped s 1 k) ∧
      (t.reg n).toNat = s.d.toNat * 256 + (stepped s 1 n).toNat % 256)

/-! ## Memory -/

/-- `MemRead` and `EffAddr`: RAM 0x0000..0x0FFF, ROM 0x8000..0x81FF, a fault elsewhere; with the boot latch set bit 15 of
the address is forced (20_memory R50, R53). -/
def Obligations.ReadWindows : Prop :=
  ∀ (s : State) (a ea : Word), (ea = if s.bootLatch then a ||| 0x8000#16 else a) →
    (ea.toNat < 0x1000 → memRead s a = .ok (s.mem.read ea.toNat)) ∧
    (0x8000 ≤ ea.toNat ∧ ea.toNat < 0x8200 → memRead s a = .ok (Config.romMonitor (ea.toNat - 0x8000))) ∧
    (0x1000 ≤ ea.toNat ∧ ea.toNat < 0x8000 ∨ 0x8200 ≤ ea.toNat → memRead s a = .error (.hardwareFault .read a))

/-- `MemWrite`: in RAM the byte reads back and nothing else changes; into ROM it faults or is ignored by the policy; a
fault elsewhere (20_memory R51). -/
def Obligations.WriteWindows : Prop :=
  ∀ (s : State) (a ea : Word) (v : Byte), (ea = if s.bootLatch then a ||| 0x8000#16 else a) →
    (ea.toNat < 0x1000 → ∃ m : Memory, memWrite s a v = .ok { s with mem := m } ∧ m.read ea.toNat = v ∧
      ∀ b, b ≠ ea.toNat → m.read b = s.mem.read b) ∧
    (0x8000 ≤ ea.toNat ∧ ea.toNat < 0x8200 → s.cfg.romWrite = .fault →
      memWrite s a v = .error (.hardwareFault .write a)) ∧
    (0x8000 ≤ ea.toNat ∧ ea.toNat < 0x8200 → s.cfg.romWrite = .ignore → memWrite s a v = .ok s) ∧
    (0x1000 ≤ ea.toNat ∧ ea.toNat < 0x8000 ∨ 0x8200 ≤ ea.toNat → memWrite s a v = .error (.hardwareFault .write a))

/-- LDN, LDA, LDX, LDXA, LDI: `D` takes the byte read, LDA and LDXA step their register, LDI steps over its operand
(41_memory_reference R101 to R105). -/
def Obligations.LoadsReadAByte : Prop :=
  ∀ (s : State) (n : Nib) (v : Byte),
    (memRead s (stepped s 1 n) = .ok v →
      Gives (.ldn n) s (fun t => Ran (0x0#4 ++ n) 2 0 s t ∧ OnlyD s t ∧ t.d = v ∧ ∀ k, t.reg k = stepped s 1 k)) ∧
    (memRead s (stepped s 1 n) = .ok v →
      Gives (.lda n) s (fun t => Ran (0x4#4 ++ n) 2 0 s t ∧ OnlyD s t ∧ t.d = v ∧
        ∀ k, t.reg k = stepped s 1 k + (if k = n then 1 else 0))) ∧
    (memRead s (stepped s 1 s.x) = .ok v →
      Gives .ldx s (fun t => Ran 0xF0 2 0 s t ∧ OnlyD s t ∧ t.d = v ∧ ∀ k, t.reg k = stepped s 1 k)) ∧
    (memRead s (stepped s 1 s.x) = .ok v →
      Gives .ldxa s (fun t => Ran 0x72 2 0 s t ∧ OnlyD s t ∧ t.d = v ∧
        ∀ k, t.reg k = stepped s 1 k + (if k = s.x then 1 else 0))) ∧
    (memRead s (s.pc + 1) = .ok v →
      Gives (.ldi v) s (fun t => Ran 0xF8 2 0 s t ∧ OnlyD s t ∧ t.d = v ∧ ∀ k, t.reg k = stepped s 2 k))

/-- STR and STXD: `D` is stored at the address in the register, STXD then steps the register down; every other byte of
memory is as before (41_memory_reference R106, R107). -/
def Obligations.StoresWriteOneByte : Prop :=
  ∀ (s : State) (n : Nib),
    (Writable s (stepped s 1 n) →
      Gives (.str n) s (fun t => Ran (0x5#4 ++ n) 2 0 s t ∧ t.d = s.d ∧ t.df = s.df ∧ ControlSame s t ∧
        DevicesSame s t ∧ Stored s t (stepped s 1 n) s.d ∧ ∀ k, t.reg k = stepped s 1 k)) ∧
    (Writable s (stepped s 1 s.x) →
      Gives .stxd s (fun t => Ran 0x73 2 0 s t ∧ t.d = s.d ∧ t.df = s.df ∧ ControlSame s t ∧
        DevicesSame s t ∧ Stored s t (stepped s 1 s.x) s.d ∧
        ∀ k, t.reg k = stepped s 1 k - (if k = s.x then 1 else 0)))

/-- An instruction whose memory access is answered by a fault takes that fault and commits nothing: reads through `R[N]`,
through `R[X]`, of an immediate; writes through `R[N]`, `R[X]`, `R[2]` (20_memory R52; 60_exceptions R251). -/
def Obligations.DataAccessFaultCommitsNothing : Prop :=
  ∀ (s : State) (f : FaultInfo) (n : Nib) (port : Port) (imm : Byte),
    (memRead s (stepped s 1 n) = .error f → ∀ i ∈ [Instr.ldn n, .lda n], Faults i s f) ∧
    (memRead s (stepped s 1 s.x) = .error f →
      ∀ i ∈ [Instr.ldx, .ldxa, .or, .and, .xor, .add, .adc, .sd, .sdb, .sm, .smb, .ret, .dis, .out port],
        Faults i s f) ∧
    (memRead s (s.pc + 1) = .error f →
      ∀ i ∈ [Instr.ldi imm, .ori imm, .ani imm, .xri imm, .adi imm, .adci imm, .sdi imm, .sdbi imm, .smi imm, .smbi imm],
        Faults i s f) ∧
    (¬ Writable s (stepped s 1 n) → Faults (.str n) s (.hardwareFault .write (stepped s 1 n))) ∧
    (¬ Writable s (stepped s 1 s.x) →
      ∀ i ∈ [Instr.stxd, .sav, .inp port], Faults i s (.hardwareFault .write (stepped s 1 s.x))) ∧
    (¬ Writable s (stepped s 1 2) → Faults .mark s (.hardwareFault .write (stepped s 1 2)))

/-! ## Logic and shifts -/

/-- OR, AND, XOR and their immediate forms, bit by bit; `DF` stays (42_logic_shift R111 to R116). -/
def Obligations.LogicOnD : Prop :=
  ∀ (s : State) (v : Byte) (row : Instr × (Byte → Instr) × Byte × Byte × (Bool → Bool → Bool)),
    row ∈ [(Instr.or, Instr.ori, 0xF1#8, 0xF9#8, (fun a b => a || b)),
      (.and, .ani, 0xF2#8, 0xFA#8, (fun a b => a && b)), (.xor, .xri, 0xF3#8, 0xFB#8, (fun a b => a != b))] →
    (memRead s (stepped s 1 s.x) = .ok v →
      Gives row.1 s (fun t => Ran row.2.2.1 2 0 s t ∧ OnlyD s t ∧ (∀ k, t.reg k = stepped s 1 k) ∧
        ∀ j, j < 8 → t.d.getLsbD j = row.2.2.2.2 (s.d.getLsbD j) (v.getLsbD j))) ∧
    (memRead s (s.pc + 1) = .ok v →
      Gives (row.2.1 v) s (fun t => Ran row.2.2.2.1 2 0 s t ∧ OnlyD s t ∧ (∀ k, t.reg k = stepped s 2 k) ∧
        ∀ j, j < 8 → t.d.getLsbD j = row.2.2.2.2 (s.d.getLsbD j) (v.getLsbD j)))

/-- SHR, SHRC, SHL, SHLC: every bit moves by one place, the bit that leaves goes into `DF`, and 0 or the old `DF` comes
in (42_logic_shift R117 to R120). -/
def Obligations.ShiftsMoveOneBit : Prop :=
  ∀ s : State,
    Gives .shr s (fun t => Ran 0xF6 2 0 s t ∧ OnlyDDf s t ∧ (∀ k, t.reg k = stepped s 1 k) ∧
      t.df = s.d.getLsbD 0 ∧ t.d.getLsbD 7 = false ∧ ∀ j, j < 7 → t.d.getLsbD j = s.d.getLsbD (j + 1)) ∧
    Gives .shrc s (fun t => Ran 0x76 2 0 s t ∧ OnlyDDf s t ∧ (∀ k, t.reg k = stepped s 1 k) ∧
      t.df = s.d.getLsbD 0 ∧ t.d.getLsbD 7 = s.df ∧ ∀ j, j < 7 → t.d.getLsbD j = s.d.getLsbD (j + 1)) ∧
    Gives .shl s (fun t => Ran 0xFE 2 0 s t ∧ OnlyDDf s t ∧ (∀ k, t.reg k = stepped s 1 k) ∧
      t.df = s.d.getLsbD 7 ∧ t.d.getLsbD 0 = false ∧ ∀ j, j < 7 → t.d.getLsbD (j + 1) = s.d.getLsbD j) ∧
    Gives .shlc s (fun t => Ran 0x7E 2 0 s t ∧ OnlyDDf s t ∧ (∀ k, t.reg k = stepped s 1 k) ∧
      t.df = s.d.getLsbD 7 ∧ t.d.getLsbD 0 = s.df ∧ ∀ j, j < 7 → t.d.getLsbD (j + 1) = s.d.getLsbD j)

/-! ## Arithmetic -/

/-- ADD, ADC and their immediate forms: the exact sum, its low byte in `D`, its carry in `DF` (43_arithmetic R126 to
R129). -/
def Obligations.AdditionsWriteSumAndCarry : Prop :=
  ∀ (s : State) (v : Byte),
    (memRead s (stepped s 1 s.x) = .ok v →
      Gives .add s (fun t => Ran 0xF4 2 0 s t ∧ OnlyDDf s t ∧ SumResult v s.d false t ∧
        ∀ k, t.reg k = stepped s 1 k) ∧
      Gives .adc s (fun t => Ran 0x74 2 0 s t ∧ OnlyDDf s t ∧ SumResult v s.d s.df t ∧
        ∀ k, t.reg k = stepped s 1 k)) ∧
    (memRead s (s.pc + 1) = .ok v →
      Gives (.adi v) s (fun t => Ran 0xFC 2 0 s t ∧ OnlyDDf s t ∧ SumResult v s.d false t ∧
        ∀ k, t.reg k = stepped s 2 k) ∧
      Gives (.adci v) s (fun t => Ran 0x7C 2 0 s t ∧ OnlyDDf s t ∧ SumResult v s.d s.df t ∧
        ∀ k, t.reg k = stepped s 2 k))

/-- SD, SDB, SM, SMB and their immediate forms: `M - D` or `D - M`, less the borrow; `DF` is 1 exactly when no borrow
occurred (43_arithmetic R125, R130 to R137). -/
def Obligations.SubtractionsWriteDifferenceAndBorrow : Prop :=
  ∀ (s : State) (v : Byte),
    (memRead s (stepped s 1 s.x) = .ok v →
      Gives .sd s (fun t => Ran 0xF5 2 0 s t ∧ OnlyDDf s t ∧ DifferenceResult v s.d true t ∧
        ∀ k, t.reg k = stepped s 1 k) ∧
      Gives .sdb s (fun t => Ran 0x75 2 0 s t ∧ OnlyDDf s t ∧ DifferenceResult v s.d s.df t ∧
        ∀ k, t.reg k = stepped s 1 k) ∧
      Gives .sm s (fun t => Ran 0xF7 2 0 s t ∧ OnlyDDf s t ∧ DifferenceResult s.d v true t ∧
        ∀ k, t.reg k = stepped s 1 k) ∧
      Gives .smb s (fun t => Ran 0x77 2 0 s t ∧ OnlyDDf s t ∧ DifferenceResult s.d v s.df t ∧
        ∀ k, t.reg k = stepped s 1 k)) ∧
    (memRead s (s.pc + 1) = .ok v →
      Gives (.sdi v) s (fun t => Ran 0xFD 2 0 s t ∧ OnlyDDf s t ∧ DifferenceResult v s.d true t ∧
        ∀ k, t.reg k = stepped s 2 k) ∧
      Gives (.sdbi v) s (fun t => Ran 0x7D 2 0 s t ∧ OnlyDDf s t ∧ DifferenceResult v s.d s.df t ∧
        ∀ k, t.reg k = stepped s 2 k) ∧
      Gives (.smi v) s (fun t => Ran 0xFF 2 0 s t ∧ OnlyDDf s t ∧ DifferenceResult s.d v true t ∧
        ∀ k, t.reg k = stepped s 2 k) ∧
      Gives (.smbi v) s (fun t => Ran 0x7F 2 0 s t ∧ OnlyDDf s t ∧ DifferenceResult s.d v s.df t ∧
        ∀ k, t.reg k = stepped s 2 k))

/-! ## Branches and skips -/

/-- The sixteen short branches: with the operand byte readable, the target is in that byte's page or the branch steps over
it; not taken, it needs no read; taken on an unreadable operand, it faults (44_short_branch R145 to R161; in the rows of B3 and BN3 the
key's state is a free value and one draw is taken, log 9). -/
def Obligations.ShortBranchesGoWhereTheySay : Prop :=
  ∀ (s : State) (addr : Byte) (b : Branch Byte), b ∈ shortBranches s →
    (memRead s (s.pc + 1) = .ok addr →
      Gives (b.instr addr) s (fun t => Ran b.op 2 b.draws s t ∧ OnlyRegs s t ∧
        (∀ k, k ≠ s.p → t.reg k = s.reg k) ∧
        t.reg s.p = if b.cond then BitVec.ofNat 16 ((s.pc + 1).toNat / 256 * 256 + addr.toNat) else s.pc + 2)) ∧
    (b.cond = false →
      Gives (b.instr addr) s (fun t => Ran b.op 2 b.draws s t ∧ OnlyRegs s t ∧ ∀ k, t.reg k = stepped s 2 k)) ∧
    (∀ f, b.cond = true → memRead s (s.pc + 1) = .error f → Faults (b.instr addr) s f)

/-- The seven long branches: the two operand bytes, high byte first, are the target, or the branch steps over them; not
taken, it needs no read; taken on an unreadable operand byte, it takes the first fault (45_long_branch_skip R165 to
R172). -/
def Obligations.LongBranchesGoWhereTheySay : Prop :=
  ∀ (s : State) (hi lo : Byte) (b : Branch Word), b ∈ longBranches s →
    (memRead s (s.pc + 1) = .ok hi → memRead s (s.pc + 2) = .ok lo →
      Gives (b.instr (hi ++ lo)) s (fun t => Ran b.op 3 0 s t ∧ OnlyRegs s t ∧ (∀ k, k ≠ s.p → t.reg k = s.reg k) ∧
        t.reg s.p = if b.cond then BitVec.ofNat 16 (hi.toNat * 256 + lo.toNat) else s.pc + 3)) ∧
    (b.cond = false →
      Gives (b.instr (hi ++ lo)) s (fun t => Ran b.op 3 0 s t ∧ OnlyRegs s t ∧ ∀ k, t.reg k = stepped s 3 k)) ∧
    (∀ f, b.cond = true → memRead s (s.pc + 1) = .error f → Faults (b.instr (hi ++ lo)) s f) ∧
    (∀ f, b.cond = true → memRead s (s.pc + 1) = .ok hi → memRead s (s.pc + 2) = .error f →
      Faults (b.instr (hi ++ lo)) s f)

/-- The eight long skips and NOP: two more bytes are stepped over, unread, or none (45_long_branch_skip R173 to R182). -/
def Obligations.LongSkipsStepOverTwoBytes : Prop :=
  ∀ (s : State) (b : Branch Unit), b ∈ longSkips s →
    Gives (b.instr ()) s (fun t => Ran b.op 3 0 s t ∧ OnlyRegs s t ∧
      ∀ k, t.reg k = stepped s (if b.cond then 3 else 1) k)

/-! ## Control -/

/-- IDL, SEP, SEX, SEQ, REQ: one control bit or selector is written and nothing else but `R[P]`; a change of `Q` is an
event of the execute cycle (46_control R185 to R189, 30_encoding R82; the event is the model's form, log 30). -/
def Obligations.ControlBitsAndSelectors : Prop :=
  ∀ (s : State) (n : Nib) (row : Instr × Byte × State),
    row ∈ [(Instr.idl, 0x00#8, { s with idle := true }), (.sep n, 0xD#4 ++ n, { s with p := n }),
      (.sex n, 0xE#4 ++ n, { s with x := n }),
      (.seq, 0x7B#8,
        { s with q := true, events := if s.q then s.events else .qOutput (s.cycles + 1) true :: s.events }),
      (.req, 0x7A#8,
        { s with q := false, events := if s.q then .qOutput (s.cycles + 1) false :: s.events else s.events })] →
    Gives row.1 s (fun t => Ran row.2.1 2 0 s t ∧ ControlSame row.2.2 t ∧ t.d = s.d ∧ t.df = s.df ∧
      DevicesSame row.2.2 t ∧ MemSame s t ∧ ∀ k, t.reg k = stepped s 1 k)

/-- SAV stores `T` at `R[X]`. MARK puts `X : P` into `T` and at the old `R[2]`, copies `P` to `X` and steps `R[2]` down
(46_control R190, R191). -/
def Obligations.SaveAndMark : Prop :=
  ∀ s : State,
    (Writable s (stepped s 1 s.x) →
      Gives .sav s (fun t => Ran 0x78 2 0 s t ∧ t.d = s.d ∧ t.df = s.df ∧ ControlSame s t ∧ DevicesSame s t ∧
        Stored s t (stepped s 1 s.x) s.t ∧ ∀ k, t.reg k = stepped s 1 k)) ∧
    (Writable s (stepped s 1 2) →
      Gives .mark s (fun t => Ran 0x79 2 0 s t ∧ t.d = s.d ∧ t.df = s.df ∧
        ControlSame { s with t := s.x ++ s.p, x := s.p } t ∧ DevicesSame s t ∧
        Stored s t (stepped s 1 2) (s.x ++ s.p) ∧ ∀ k, t.reg k = stepped s 1 k - (if k = 2 then 1 else 0)))

/-- RET and DIS: `X` and `P` come from the byte at `R[X]`, that register steps up, `IE` becomes 1 or 0 (46_control R192,
R193). -/
def Obligations.ReturnRestoresXAndP : Prop :=
  ∀ (s : State) (v : Byte) (row : Instr × Byte × Bool),
    row ∈ [(Instr.ret, 0x70#8, true), (.dis, 0x71#8, false)] → memRead s (stepped s 1 s.x) = .ok v →
    Gives row.1 s (fun t => Ran row.2.1 2 0 s t ∧
      t.x.toNat = v.toNat / 16 ∧ t.p.toNat = v.toNat % 16 ∧ t.ie = row.2.2 ∧ t.t = s.t ∧ t.q = s.q ∧
      t.idle = s.idle ∧ t.d = s.d ∧ t.df = s.df ∧ DevicesSame s t ∧ MemSame s t ∧
      ∀ k, t.reg k = stepped s 1 k + (if k = s.x then 1 else 0))

/-! ## Input and output -/

/-- OUT p: the byte at `R[X]` goes out and is stepped over; ports 1, 2 and 4 act on the display bit, the key latch and the
boot latch, the others on nothing (47_io R201, R203). -/
def Obligations.OutputStrobes : Prop :=
  ∀ (s : State) (p : Port) (v : Byte), memRead s (stepped s 1 s.x) = .ok v →
    Gives (.out p) s (fun t => Ran (0b01100#5 ++ p) 2 0 s t ∧ t.d = s.d ∧ t.df = s.df ∧ ControlSame s t ∧
      MemSame s t ∧ (∀ k, t.reg k = stepped s 1 k + (if k = s.x then 1 else 0)) ∧
      t.displayEnabled = (if p = 1 then false else s.displayEnabled) ∧
      t.keyLatch = (if p = 2 then v.extractLsb' 0 4 else s.keyLatch) ∧
      t.bootLatch = (if p = 4 then false else s.bootLatch) ∧
      t.events = .out (s.cycles + 1) p v :: s.events)

/-- INP p: one free byte goes to memory at `R[X]` and to `D`; port 1 turns the display on (47_io R202, R204; the free
byte and its draw counter are the model's form of an open value, log 8). -/
def Obligations.InputStrobes : Prop :=
  ∀ (s : State) (p : Port), Writable s (stepped s 1 s.x) →
    Gives (.inp p) s (fun t => Ran (0b01101#5 ++ p) 2 1 s t ∧
      t.d = Config.inpValue s.draws p (s.cycles + 1) ∧
      Stored s t (stepped s 1 s.x) (Config.inpValue s.draws p (s.cycles + 1)) ∧
      t.df = s.df ∧ ControlSame s t ∧ (∀ k, t.reg k = stepped s 1 k) ∧
      t.displayEnabled = (if p = 1 then true else s.displayEnabled) ∧
      t.keyLatch = s.keyLatch ∧ t.bootLatch = s.bootLatch ∧ t.events = .inp (s.cycles + 1) p :: s.events)

/-- The reserved opcode 0x68 and every unmapped 16-bit opcode raise `InvalidOpcode` and commit nothing (47_io R205,
48_dispatch R214; for 0x68 the policy is the spec's own choice, D7). -/
def Obligations.InvalidOpcodesFault : Prop :=
  ∀ (s : State) (op : Word),
    Faults .reserved s (.invalidOpcode 0x0068) ∧ Faults (.c8Unmapped op) s (.invalidOpcode op)

/-! ## CHIP-8 handlers -/

/-- 8xy1, 8xy2, 8xy3: or, and, exclusive or of `V[x]` and `V[y]`, then `V[15]` is cleared if the quirk says so
(48_dispatch R226). -/
def Obligations.Chip8Logic : Prop :=
  ∀ (s : State) (x y : Nib) (row : Instr × Byte),
    row ∈ [(Instr.c8Or x y, s.vreg x ||| s.vreg y), (.c8And x y, s.vreg x &&& s.vreg y),
      (.c8Xor x y, s.vreg x ^^^ s.vreg y)] →
    Gives row.1 s (fun t => Ran8 0 s t ∧ NextOpcode s t ∧ StackSame s t ∧ t.i8 = s.i8 ∧ t.cpuState = s.cpuState ∧
      MemSame s t ∧
      ∀ k, t.vreg k = if k = 15 ∧ s.cfg.vfResetOnLogic = true then 0 else if k = x then row.2 else s.vreg k)

/-- 8xy6, 8xyE: shift the source register the quirk selects by one place; `V[15]` takes the bit that left, after the
result (48_dispatch R225). -/
def Obligations.Chip8Shifts : Prop :=
  ∀ (s : State) (x y : Nib) (src : Byte),
    (src = match s.cfg.shiftSource with | .vx => s.vreg x | .vy => s.vreg y) →
    Gives (.c8ShiftRight x y) s (fun t => Ran8 0 s t ∧ NextOpcode s t ∧ StackSame s t ∧ t.i8 = s.i8 ∧
      t.cpuState = s.cpuState ∧ MemSame s t ∧
      ∀ k, (t.vreg k).toNat =
        if k = 15 then src.toNat % 2 else if k = x then src.toNat / 2 else (s.vreg k).toNat) ∧
    Gives (.c8ShiftLeft x y) s (fun t => Ran8 0 s t ∧ NextOpcode s t ∧ StackSame s t ∧ t.i8 = s.i8 ∧
      t.cpuState = s.cpuState ∧ MemSame s t ∧
      ∀ k, (t.vreg k).toNat =
        if k = 15 then src.toNat / 128 else if k = x then src.toNat * 2 % 256 else (s.vreg k).toNat)

/-- `I8` after a load or store of `V[0]..V[x]` (48_dispatch R227). -/
def Sys2Proof.Slice0.movedI (s : State) (x : Nib) : Nat :=
  match s.cfg.loadStoreI with
  | .unchanged => s.i8.toNat
  | .plusX => (s.i8.toNat + x.toNat) % 2 ^ s.cfg.iw.bits
  | .plusXPlus1 => (s.i8.toNat + x.toNat + 1) % 2 ^ s.cfg.iw.bits

/-- Fx55: `V[0]..V[x]` go to memory at `I8`, addresses masked; every other byte is as before; the pad follows address 0;
`I8` moves by the quirk (48_dispatch R227). -/
def Obligations.Chip8StoreWritesRegisters : Prop :=
  ∀ (s : State) (x : Nib),
    Gives (.c8Store x) s (fun t => Ran8 0 s t ∧ NextOpcode s t ∧ StackSame s t ∧ t.cpuState = s.cpuState ∧
      t.v = s.v ∧ t.i8.toNat = movedI s x ∧
      (∀ k : Nib, k ≤ x → t.mem.read ((s.i8.toNat + k.toNat) % s.cfg.memSize) = s.vreg k) ∧
      (∀ a, (∀ k : Nib, k ≤ x → a ≠ (s.i8.toNat + k.toNat) % s.cfg.memSize) → t.mem.read a = s.mem.read a) ∧
      ((∃ k : Nib, k ≤ x ∧ (s.i8.toNat + k.toNat) % s.cfg.memSize = 0) → t.pad = t.mem.read 0) ∧
      ((∀ k : Nib, k ≤ x → (s.i8.toNat + k.toNat) % s.cfg.memSize ≠ 0) → t.pad = s.pad))

/-- Fx65: `V[0]..V[x]` come from memory at `I8`, addresses masked; memory is as before; `I8` moves by the quirk
(48_dispatch R227). -/
def Obligations.Chip8LoadReadsRegisters : Prop :=
  ∀ (s : State) (x : Nib),
    Gives (.c8Load x) s (fun t => Ran8 0 s t ∧ NextOpcode s t ∧ StackSame s t ∧ t.cpuState = s.cpuState ∧
      MemSame s t ∧ t.i8.toNat = movedI s x ∧
      ∀ k : Nib, t.vreg k =
        if k ≤ x then s.mem.read ((s.i8.toNat + k.toNat) % s.cfg.memSize) else s.vreg k)

/-- Fx55 and then Fx65 at the same `I8` and `x` restores `V[0]..V[x]`, whatever the other `V` values are in between, for
every increment policy (48_dispatch R227, 95_test_vectors T3). -/
def Obligations.StoreThenLoadRestoresRegisters : Prop :=
  ∀ (s t u : State) (x : Nib), exec (.c8Store x) s = .next t →
    ∀ v' : Vector Byte 16, exec (.c8Load x) { t with v := v', i8 := s.i8 } = .next u →
      ∀ k : Nib, k ≤ x → u.vreg k = s.vreg k

/-- 2nnn: the address after the call is pushed and `PC8` takes `nnn`; at depth 16 under the policy `error` the call raises
`StackOverflow` and commits nothing; under `cyclic` it never faults (48_dispatch R221, R222). -/
def Obligations.CallPushesReturnAddress : Prop :=
  ∀ (s : State) (nnn : BitVec 12),
    (s.cfg.stackPolicy = .error → s.sp8 < 16 →
      Gives (.c8Call nnn) s (fun t => Ran8 0 s t ∧ t.pc8.toNat = nnn.toNat ∧ t.sp8 = s.sp8 + 1 ∧ t.v = s.v ∧
        t.i8 = s.i8 ∧ t.cpuState = s.cpuState ∧ MemSame s t ∧
        (t.stackAt s.sp8).toNat = (s.pc8.toNat + 2) % 2 ^ s.cfg.space.bits ∧
        ∀ k, k < 16 → k ≠ s.sp8 → t.stackAt k = s.stackAt k)) ∧
    (s.cfg.stackPolicy = .error → s.sp8 = 16 → Faults (.c8Call nnn) s .stackOverflow) ∧
    (s.cfg.stackPolicy = .cyclic →
      Gives (.c8Call nnn) s (fun t => Ran8 0 s t ∧ t.pc8.toNat = nnn.toNat ∧ t.sp8 = (s.sp8 + 1) % 16 ∧ t.v = s.v ∧
        t.i8 = s.i8 ∧ t.cpuState = s.cpuState ∧ MemSame s t ∧
        (t.stackAt (s.sp8 % 16)).toNat = (s.pc8.toNat + 2) % 2 ^ s.cfg.space.bits ∧
        ∀ k, k < 16 → k ≠ s.sp8 % 16 → t.stackAt k = s.stackAt k))

/-- 00EE: `PC8` takes the entry popped; at depth 0 under the policy `error` the return raises `StackUnderflow` and commits
nothing; under `cyclic` it wraps (48_dispatch R223, R224). -/
def Obligations.ReturnPopsReturnAddress : Prop :=
  ∀ s : State,
    (s.cfg.stackPolicy = .error → 1 ≤ s.sp8 → s.sp8 ≤ 16 →
      Gives .c8Return s (fun t => Ran8 0 s t ∧ t.pc8 = s.stackAt (s.sp8 - 1) ∧ t.sp8 = s.sp8 - 1 ∧
        t.stack = s.stack ∧ t.v = s.v ∧ t.i8 = s.i8 ∧ t.cpuState = s.cpuState ∧ MemSame s t)) ∧
    (s.cfg.stackPolicy = .error → s.sp8 = 0 → Faults .c8Return s .stackUnderflow) ∧
    (s.cfg.stackPolicy = .cyclic → s.sp8 < 16 →
      Gives .c8Return s (fun t => Ran8 0 s t ∧
        t.sp8 = (if s.sp8 = 0 then 15 else s.sp8 - 1) ∧ t.pc8 = s.stackAt t.sp8 ∧
        t.stack = s.stack ∧ t.v = s.v ∧ t.i8 = s.i8 ∧ t.cpuState = s.cpuState ∧ MemSame s t))

/-- Fx0A: without a key `PC8` is rewound to the instruction and the CPU waits; with a key `V[x]` takes it (48_dispatch
R228). The host's answer is a free value (log 9). -/
def Obligations.KeyWaitPolls : Prop :=
  ∀ (s : State) (x : Nib),
    Gives (.c8KeyWait x) s (fun t => Ran8 1 s t ∧ StackSame s t ∧ t.i8 = s.i8 ∧ MemSame s t ∧
      match Config.getKeyPressed s.draws with
      | none => t.pc8.toNat = s.pc8.toNat % 2 ^ s.cfg.space.bits ∧ t.cpuState = .waiting ∧ t.v = s.v
      | some key => NextOpcode s t ∧ t.cpuState = .normal ∧
          ∀ k, (t.vreg k).toNat = if k = x then key.toNat else (s.vreg k).toNat)

/-- Dxyn is a parameter handler, and so is every `Handler.param k` of a table: whatever it is, it answers a next state,
which is the handler's registers, counters, stack and memory bytes, reduced to their widths and ranges, or the fault it
raises; the CDP1802 side and the configuration are as before (48_dispatch R220, R229; log 19, log 20). -/
def Obligations.DrawIsAParameterHandler : Prop :=
  ∀ (s : State) (e : HandlerEffect),
    (∀ x y n : Nib, e = Config.handler .draw s.draws (0xD#4 ++ x ++ y ++ n) (handlerView (fetched8 s)) →
      Gives (.c8Draw x y n) s (CommitsHandler e s)) ∧
    (∀ (k : Nat) (op : Word), e = Config.handler (.param k) s.draws op (handlerView (fetched8 s)) →
      ∃ t, runHandler (.param k) op s = .next t ∧ CommitsHandler e s t)

/-! ## The step -/

/-- A backend step at an instruction boundary without a request runs the decoded instruction: the bytes at `R[P]`, the
frame count of 60_exceptions R281 and the re-entry test of 48_dispatch R238 around it (30_encoding R79, R80; how the source's loops are cut into steps is the model's, log 2, and the
two bytes looked at ahead are log 21). The fast-forward of an instance that takes its post-condition runs no instruction
(`ResetValues` says what it does). -/
def Obligations.BackendStepRunsTheDecodedInstruction : Prop :=
  ∀ (s t : State) (op : Byte) (i : Instr) (rest : List Byte),
    takeAction s = none → s.fault = none → s.cfg.engine = .hardware → held s = false →
    s.phase = .ready ∨ s.cfg.fastForward = .run → nextCycle s = .instruction → memRead s s.pc = .ok op →
    decode1802 [op, byteAhead s 1, byteAhead s 2] = .ok (i, rest) → exec i s = .next t →
    step s = .next
      (let t := countFrame s t
       afterExecute s (if reentered s t then atReentry t else t) (reentered s t))

/-- A fast-path step inside a frame runs the opcode at `PC8` by the handler the configured table holds for it, a
parameter handler included, and then the mode and breakpoint checks and the frame's countdown; with the table of the
source's families that is the decoded instruction. With no frame in progress the step begins one of `IPF` instructions;
when its instructions have run, the step is the timer tick; a pause inside a frame ends it with the rest unrun, its tick
by the parameter (48_dispatch R210, R218, R219, R230, R242; the frame's steps and that parameter are the model's, log
10). -/
def Obligations.FastPathStepRunsTheDecodedOpcode : Prop :=
  ∀ s : State, takeAction s = none → s.fault = none → s.cfg.engine = .fastPath → held s = false →
    (∀ (t : State) (left : Nat) (op : Word),
      op = read8 s (s.pc8.toNat % s.cfg.memSize) ++ read8 s (s.pc8.toNat % s.cfg.memSize + 1) →
      s.frameLeft = some (left + 1) →
      (match handlerAt s.cfg.table op with
        | .param k => runHandler (.param k) op s
        | h => exec (h.instr op) s) = .next t →
      step s = .next (pauseFrame (countDown left (afterFastStep op t)))) ∧
    (∀ (t : State) (left : Nat) (i : Instr) (rest : List Byte),
      s.cfg.table = sourceFamilies → s.frameLeft = some (left + 1) →
      decodeChip8 [read8 s (s.pc8.toNat % s.cfg.memSize), read8 s (s.pc8.toNat % s.cfg.memSize + 1)] = .ok (i, rest) →
      exec i s = .next t → step s = .next (pauseFrame (countDown left (afterFastStep (fetchOpcode s) t)))) ∧
    (s.frameLeft = some 0 → step s = .next { timerTick s with frameLeft := none }) ∧
    (s.frameLeft = none → ∃ n d, step s = .next { s with frameLeft := some n, draws := d } ∧
      ∀ ipf, s.cfg.ipf = some ipf → n = ipf.val ∧ 0 < n ∧ d = s.draws) ∧
    (∀ left t, t.fault = none → t.cfg.engine = .fastPath →
      pauseFrame (countDown left t) =
        if t.execMode = .paused
        then { (if t.cfg.tickOnPause then timerTick t else t) with frameLeft := none }
        else { t with frameLeft := some left })

/-- Requests are looked at before every instruction, DMA-out before interrupt before idle, by the frame position of
60_exceptions R277 (30_encoding R79; 60_exceptions R263, R273, R274). -/
def Obligations.RequestPriority : Prop :=
  ∀ s : State,
    (let f := s.cycles % 3668
     let dma := s.displayEnabled = true ∧ 1120 ≤ f ∧ f < 2912 ∧ 1 ≤ f % 14 ∧ f % 14 ≤ 8
     let int := s.displayEnabled = true ∧ 1092 ≤ f ∧ f ≤ 1119 ∧ s.ie = true
     (dma → coreStep s = .next (countFrame s (dmaOutCycle s))) ∧
     (¬ dma → int → coreStep s = .next (countFrame s (interruptCycle s))) ∧
     (¬ dma → ¬ int → s.idle = true → coreStep s = .next (countFrame s { s with cycles := s.cycles + 1 })) ∧
     (¬ dma → ¬ int → s.idle = false → coreStep s = mapNext (countFrame s) (runInstruction s)))

/-- The CDP1861's three outputs by frame cycle: the interrupt request on lines 78 and 79, the DMA-out request at line
cycles 1 to 8 of lines 80 to 207, both with the display on, and `EFX` on lines 76 to 79 and 204 to 207 whatever the
display is, sampled by `EF(1)` one cycle after the fetch (60_exceptions R273, R274, R275, R277; 10_state R36). -/
def Obligations.VideoOutputsByFrameCycle : Prop :=
  ∀ (s : State) (c : Nat),
    (intReq s c = true ↔ s.displayEnabled = true ∧ 1092 ≤ c % 3668 ∧ c % 3668 ≤ 1119) ∧
    (dmaOutReq s c = true ↔
      s.displayEnabled = true ∧ 1120 ≤ c % 3668 ∧ c % 3668 ≤ 2911 ∧ 1 ≤ c % 3668 % 14 ∧ c % 3668 % 14 ≤ 8) ∧
    (efx c = true ↔ (1064 ≤ c % 3668 ∧ c % 3668 ≤ 1119) ∨ (2856 ≤ c % 3668 ∧ c % 3668 ≤ 2911)) ∧
    ef1 s = efx (s.cycles + 1)

/-- Interrupt entry: `T` takes `X : P`, `P` 1, `X` 2, `IE` and the idle bit 0, one cycle; no scratchpad register, no
memory, nothing else (60_exceptions R264). -/
def Obligations.InterruptEntry : Prop :=
  ∀ s : State, nextCycle s = .interrupt →
    ∃ t, coreStep s = .next t ∧ (t.t.toNat = s.x.toNat * 16 + s.p.toNat ∧ t.p = 1 ∧ t.x = 2 ∧ t.ie = false ∧
      t.idle = false ∧ t.cycles = s.cycles + 1) ∧
      t.r = s.r ∧ t.d = s.d ∧ t.df = s.df ∧ t.q = s.q ∧ t.i = s.i ∧ t.n = s.n ∧ DevicesSame s t ∧ MemSame s t ∧
      BlockSame s t ∧ Chip8Same { s with frames8 := t.frames8 } t

/-- A DMA-out cycle: the byte at `R[0]` is an output event, `R[0]` steps up, the idle bit falls, one cycle; if `R[0]`
addresses no window, the fault is taken and nothing is committed (60_exceptions R262). Nothing else changes, but that the
cycle may cross a frame boundary and count it (R281). -/
def Obligations.DmaOutCycleEffect : Prop :=
  ∀ (s : State) (v : Byte), nextCycle s = .dmaOut →
    (memRead s (s.reg 0) = .ok v →
      ∃ t, coreStep s = .next t ∧ t.i = s.i ∧ t.n = s.n ∧ t.displayEnabled = s.displayEnabled ∧
        t.bootLatch = s.bootLatch ∧ t.keyLatch = s.keyLatch ∧ t.draws = s.draws ∧
        Chip8Same { s with frames8 := t.frames8 } t ∧ t.events = .dmaOut s.cycles (s.reg 0) v :: s.events ∧ t.idle = false ∧
        t.cycles = s.cycles + 1 ∧ (∀ k, t.reg k = s.reg k + (if k = 0 then 1 else 0)) ∧
        t.d = s.d ∧ t.df = s.df ∧ t.p = s.p ∧ t.x = s.x ∧ t.t = s.t ∧ t.ie = s.ie ∧ t.q = s.q ∧ MemSame s t ∧
        BlockSame s t) ∧
    (∀ f, memRead s (s.reg 0) = .error f →
      coreStep s = .next { s with fault := some f, cpuState := .error, execMode := .paused, inTick := false })

/-- An opcode fetch from an address in no window faults before any state changes (20_memory R52). -/
def Obligations.OpcodeFetchFault : Prop :=
  ∀ (s : State) (f : FaultInfo), nextCycle s = .instruction → memRead s s.pc = .error f →
    coreStep s = .next { s with fault := some f, cpuState := .error, execMode := .paused, inTick := false }

/-- Re-entry: a backend instruction that does not fault and leaves `R[P] = 0x001B` refreshes the shadow state, counts a
CHIP-8 instruction and reports true; nothing else does (48_dispatch R238). -/
def Obligations.ReentryTest : Prop :=
  ∀ s t : State, coreStep s = .next t →
    executeCdp1802 s =
      if t.fault = none ∧ nextCycle s = .instruction ∧ t.pc = 0x001B#16
      then .next ({ shadowRefresh t with cycles8 := t.cycles8 + 1 }, true) else .next (t, false)

/-- `ShadowRefresh` under the offered default map, with the stack page inside RAM and `R[2]` not above the stack top
(48_dispatch R239, R240; the map is an assumption, log 16). -/
def Obligations.ShadowRefreshUnderTheDefaultMap : Prop :=
  ∀ (s : State) (base : Nat), s.cfg.shadow = defaultShadow → base = (s.reg 2).toNat / 256 * 256 → base < 0x1000 →
    (s.reg 2).toNat ≤ base + 0xCF →
    (∀ k : Nib, (shadowRefresh s).vreg k = s.mem.read (base + 0xF0 + k.toNat)) ∧
    (shadowRefresh s).i8.toNat = (s.reg 0xA).toNat % 2 ^ s.cfg.iw.bits ∧
    (shadowRefresh s).pc8.toNat = (s.reg 5).toNat % 2 ^ s.cfg.space.bits ∧
    (shadowRefresh s).dt.toNat = (s.reg 8).toNat / 256 ∧ (shadowRefresh s).st.toNat = (s.reg 8).toNat % 256 ∧
    (shadowRefresh s).sp8 = (base + 0xCF - (s.reg 2).toNat) / 2 ∧
    (∀ k, k < 16 → k < (shadowRefresh s).sp8 → ((shadowRefresh s).stackAt k).toNat =
      ((s.mem.read (base + 0xCF - 2 * k - 2)).toNat * 256 + (s.mem.read (base + 0xCF - 2 * k - 1)).toNat)
        % 2 ^ s.cfg.space.bits) ∧
    MemSame s (shadowRefresh s) ∧ CpuSame s (shadowRefresh s)

/-! ## Faults, modes, timers, reset -/

/-- A faulted machine is final: its step answers the fault, and neither the tick nor a host call other than `reset()`
alters it (60_exceptions R253; that the step answers `halted` is the model's form, log 11, and that such a call is taken
without an effect, log 13). -/
def Obligations.FaultedMachineIsFinal : Prop :=
  ∀ (s : State) (f : FaultInfo) (m : ExecMode) (b : Breakpoint), s.fault = some f → s.cpuState = .error →
    (takeAction s = none → step s = .fault (.halted f)) ∧ timerTick s = s ∧ tick8 s = .next s ∧
    (∀ a ∈ [HostAction.setExecMode m, .setBreakpoint b, .removeBreakpoint b.addr], applyAction a s = s) ∧
    ∀ fuel, tick8Backend fuel s = .next s

/-- Only a fault entry sets the record, and what it leaves is the state the instruction began in with the record, `Error`
and `Paused` (60_exceptions R251, R252), for every instruction of both engines. -/
def Obligations.FaultUndoesTheInstruction : Prop :=
  ∀ (i : Instr) (s t : State) (f : FaultInfo), s.fault = none → exec i s = .next t → t.fault = some f →
    t = { s with fault := some f, cpuState := .error, execMode := .paused, inTick := false }

/-- Every step answers: a next state, or the halt of a faulted machine; it never refuses (00_scope R12; 30_encoding R80:
the match is total). -/
def Obligations.EveryStepAnswers : Prop :=
  ∀ s : State, (∃ t, step s = .next t) ∨ (∃ f, s.fault = some f ∧ step s = .fault (.halted f))

/-- A paused machine outside the fast-forward keeps all its state (48_dispatch R230, R232; no tick while paused is the model's
choice, log 10). -/
def Obligations.PausedMachineIsFrozen : Prop :=
  ∀ s : State, takeAction s = none → s.fault = none → s.execMode = .paused →
    (s.cfg.engine = .hardware → s.phase = .ready) → step s = .next s

/-- The execution-mode machine. `setExecMode` sets the mode, and entering StepOver records the stack depth. After an
instruction Step pauses, StepOver pauses once the depth is back, StepOut pauses on a return, a breakpoint at the new
`PC8` pauses always; otherwise the mode stays, and nothing but the mode changes (48_dispatch R230, R231, R233 to
R236; what counts as a return is log 38). -/
def Obligations.ExecutionModeMachine : Prop :=
  ∀ (s : State) (wasReturn : Bool),
    (∀ m : ExecMode, s.cpuState ≠ .error →
      setExecMode m s =
        { s with execMode := m, stepOverDepth := if m = .stepOver then s.sp8 else s.stepOverDepth }) ∧
    ∃ m, afterInstruction wasReturn s = { s with execMode := m } ∧
      (m = .paused ↔ s.execMode = .paused ∨ s.execMode = .step ∨
        (s.execMode = .stepOver ∧ s.sp8 ≤ s.stepOverDepth) ∨ (s.execMode = .stepOut ∧ wasReturn = true) ∨
        ∃ b ∈ s.breakpoints, b.addr = s.pc8) ∧
      (m ≠ .paused → m = s.execMode)

/-- `TimerTick`: `DT` and `ST` count down to 0 and stay there, the frame is counted, everything else is as before
(60_exceptions R280). -/
def Obligations.TimerTickCountsDown : Prop :=
  ∀ s : State, s.fault = none →
    (timerTick s).dt.toNat = s.dt.toNat - 1 ∧ (timerTick s).st.toNat = s.st.toNat - 1 ∧
    (timerTick s).frames8 = s.frames8 + 1 ∧ (timerTick s).mem = s.mem ∧ (timerTick s).pad = s.pad ∧
    (timerTick s).draws = s.draws ∧ CpuSame s (timerTick s) ∧ BlockSame s (timerTick s) ∧
    Chip8Same { s with dt := (timerTick s).dt, st := (timerTick s).st, frames8 := (timerTick s).frames8 } (timerTick s)

/-- In the backend a `CoreStep` that crosses a multiple of 3668 cycles counts one frame, any other none (60_exceptions
R281). -/
def Obligations.BackendCountsFrames : Prop :=
  ∀ s t : State, coreStep s = .next t → s.fault = none → s.cfg.engine = .hardware →
    t.frames8 = s.frames8 + (t.cycles / 3668 - s.cycles / 3668) ∧ t.cycles ≤ s.cycles + 3

/-- `reset()`: the values of 70_reset R301, R304, R306, from any state, a faulted one included; what reset does not
write stays (R301 for the CDP1802's registers; the key latch, log 14). Without the boot latch `R[1].1` is 0x0F (R303; that
reset writes it is log 32). Then the backend's fast-forward: an instance that takes its post-condition answers the ready
state in one step, RAM as reset left it (R307, R302; the one step and the other shadow values are log 42); one that runs it restarts the CHIP-8-level
counters on either exit. -/
def Obligations.ResetValues : Prop :=
  ∀ s : State,
    ((hostReset s).i = 0 ∧ (hostReset s).n = 0 ∧ (hostReset s).q = false ∧ (hostReset s).ie = true ∧
      (hostReset s).x = 0 ∧ (hostReset s).p = 0 ∧ (hostReset s).reg 0 = 0 ∧ (hostReset s).idle = false ∧
      (∀ k, k ≠ 0 → k ≠ 1 ∨ s.cfg.hasBootLatch = true → (hostReset s).reg k = s.reg k) ∧
      (s.cfg.hasBootLatch = false → ((hostReset s).reg 1).toNat = 0x0F00 + (s.reg 1).toNat % 256) ∧
      (hostReset s).d = s.d ∧ (hostReset s).df = s.df ∧
      (hostReset s).t = s.t ∧ (hostReset s).displayEnabled = false ∧ (hostReset s).cycles = 0 ∧
      (hostReset s).bootLatch = s.cfg.hasBootLatch ∧ (hostReset s).keyLatch = s.keyLatch ∧
      (hostReset s).fault = none ∧ (∀ k, (hostReset s).vreg k = 0) ∧
      (hostReset s).pc8 = s.cfg.startAddr ∧ (hostReset s).i8 = 0 ∧ (hostReset s).sp8 = 0 ∧ (hostReset s).dt = 0 ∧
      (hostReset s).st = 0 ∧ (hostReset s).cycles8 = 0 ∧ (hostReset s).frames8 = 0 ∧ (hostReset s).clears8 = 0 ∧
      (hostReset s).cpuState = .normal ∧ (hostReset s).execMode = .paused ∧ (hostReset s).cfg = s.cfg) ∧
    (takeAction s = none → s.fault = none → s.cfg.engine = .hardware → s.phase = .fastForward →
      (s.cfg.fastForward = .postCondition →
        ∃ t, step s = .next t ∧ t.pc = 0x001B#16 ∧ t.pc8 = s.cfg.startAddr ∧ (∀ k, t.vreg k = 0) ∧
          t.cpuState = .normal ∧ t.cycles8 = 0 ∧ t.frames8 = 0 ∧ t.phase = .ready ∧ t.fault = none ∧
          t.execMode = s.execMode ∧ t.events = s.events ∧ t.cfg = s.cfg ∧ MemSame s t) ∧
      (s.cfg.fastForward = .run → ∀ t hit, executeCdp1802 s = .next (t, hit) →
        ∃ u, step s = .next u ∧
          (t.fault ≠ none ∨ (hit = true ∧ t.pc8 = t.cfg.startAddr) →
            u = { t with phase := .ready, cycles8 := 0, frames8 := 0 }) ∧
          (t.fault = none → ¬ (hit = true ∧ t.pc8 = t.cfg.startAddr) → u = t)))

/-- The load contract: after a load and reset the program stands from 0x200 on, truncated to the memory; every other
byte from 0x200 on is 0x00; the fast-forward taken by its post-condition leaves them so (20_memory R68, 70_reset R302,
R307; the zero fill is the spec's own inference there, D10, and the form of the fast-forward is log 42). -/
def Obligations.LoadedProgramStandsAtLoadOffset : Prop :=
  ∀ (s : State) (image : List Byte) (a : Nat), 0x200 ≤ a →
    (applyAction (.loadAndReset image) s).mem.read a =
      (if a < loadableSize s.cfg then image.getD (a - 0x200) 0 else 0) ∧
    (readyState (applyAction (.loadAndReset image) s)).mem.read a =
      (if a < loadableSize s.cfg then image.getD (a - 0x200) 0 else 0)

/-! ## Whole-machine rules -/

/-- The writers of `DF`, `IE`, `Q`, `T`, `P`, `X`, of the display bit and of the two latches: no other instruction of
either engine changes them (10_state R24 to R26, R28 to R30, R37, R39; 47_io R203, R204; 60_exceptions R272, R285). -/
def Obligations.OnlyTheNamedInstructionsWriteControlBits : Prop :=
  ∀ (i : Instr) (s t : State), exec i s = .next t →
    (t.df ≠ s.df → i ∈ [Instr.add, .adc, .sd, .sdb, .sm, .smb, .shr, .shrc, .shl, .shlc] ∨
      ∃ imm, i ∈ [Instr.adi imm, .adci imm, .sdi imm, .sdbi imm, .smi imm, .smbi imm]) ∧
    (t.ie ≠ s.ie → i = .ret ∨ i = .dis) ∧ (t.q ≠ s.q → i = .seq ∨ i = .req) ∧ (t.t ≠ s.t → i = .mark) ∧
    (t.p ≠ s.p → i = .ret ∨ i = .dis ∨ ∃ n, i = .sep n) ∧
    (t.x ≠ s.x → i = .ret ∨ i = .dis ∨ i = .mark ∨ ∃ n, i = .sex n) ∧
    (t.displayEnabled ≠ s.displayEnabled → i = .out 1 ∨ i = .inp 1) ∧ (t.keyLatch ≠ s.keyLatch → i = .out 2) ∧
    (t.bootLatch ≠ s.bootLatch → i = .out 4 ∧ t.bootLatch = false)

/-- Every CDP1802 instruction that does not fault takes three cycles if its opcode is of class 0xC and two otherwise, and
a faulting one none (30_encoding R81, 70_reset R320). -/
def Obligations.InstructionsTakeTwoOrThreeCycles : Prop :=
  ∀ (i : Instr) (s t : State), i.engine = .hardware → s.fault = none → exec i s = .next t →
    t.cycles = s.cycles +
      (if t.fault ≠ none then 0 else if ((encode i).headD 0).toNat / 16 = 0xC then 3 else 2)

/-- No step changes the configuration or the dispatch table (10_state R48). -/
def Obligations.ConfigurationNeverChanges : Prop :=
  ∀ s t : State, step s = .next t → t.cfg = s.cfg

/-- Every step keeps a good state good: the breakpoints have one entry an address, by rising address; fault record, `Error` and `Paused` agree; memory stays canonical and inside its
space; the safety pad mirrors byte 0; `I8`, `PC8` and the stack entries fit their widths; the depth keeps its range; the
backend never waits (10_state R33; 20_memory R67; 10_state R41, R42; 48_dispatch R222, R239). -/
def Obligations.EveryStepKeepsAGoodState : Prop :=
  ∀ s t : State, s.Good → step s = .next t → t.Good

/-- The state after reset is good. -/
def Obligations.ResetStateIsGood : Prop := State.reset.Good
end

