-- ==== Sys2Proof/Laws/State.lean ====
section
/-! SUPPORT. One lemma per field for each named update of State, true by rfl. -/

namespace Sys2Proof.Machine

section
variable (s : State) (n : Nib) (w : Word)
@[simp] theorem setReg_r : (s.setReg n w).r = s.r.set n.toNat w n.isLt := rfl
@[simp] theorem setReg_d : (s.setReg n w).d = s.d := rfl
@[simp] theorem setReg_df : (s.setReg n w).df = s.df := rfl
@[simp] theorem setReg_p : (s.setReg n w).p = s.p := rfl
@[simp] theorem setReg_x : (s.setReg n w).x = s.x := rfl
@[simp] theorem setReg_i : (s.setReg n w).i = s.i := rfl
@[simp] theorem setReg_n : (s.setReg n w).n = s.n := rfl
@[simp] theorem setReg_t : (s.setReg n w).t = s.t := rfl
@[simp] theorem setReg_ie : (s.setReg n w).ie = s.ie := rfl
@[simp] theorem setReg_q : (s.setReg n w).q = s.q := rfl
@[simp] theorem setReg_idle : (s.setReg n w).idle = s.idle := rfl
@[simp] theorem setReg_fault : (s.setReg n w).fault = s.fault := rfl
@[simp] theorem setReg_cycles : (s.setReg n w).cycles = s.cycles := rfl
@[simp] theorem setReg_displayEnabled : (s.setReg n w).displayEnabled = s.displayEnabled := rfl
@[simp] theorem setReg_bootLatch : (s.setReg n w).bootLatch = s.bootLatch := rfl
@[simp] theorem setReg_keyLatch : (s.setReg n w).keyLatch = s.keyLatch := rfl
@[simp] theorem setReg_mem : (s.setReg n w).mem = s.mem := rfl
@[simp] theorem setReg_pad : (s.setReg n w).pad = s.pad := rfl
@[simp] theorem setReg_events : (s.setReg n w).events = s.events := rfl
@[simp] theorem setReg_v : (s.setReg n w).v = s.v := rfl
@[simp] theorem setReg_i8 : (s.setReg n w).i8 = s.i8 := rfl
@[simp] theorem setReg_pc8 : (s.setReg n w).pc8 = s.pc8 := rfl
@[simp] theorem setReg_stack : (s.setReg n w).stack = s.stack := rfl
@[simp] theorem setReg_sp8 : (s.setReg n w).sp8 = s.sp8 := rfl
@[simp] theorem setReg_dt : (s.setReg n w).dt = s.dt := rfl
@[simp] theorem setReg_st : (s.setReg n w).st = s.st := rfl
@[simp] theorem setReg_cycles8 : (s.setReg n w).cycles8 = s.cycles8 := rfl
@[simp] theorem setReg_frames8 : (s.setReg n w).frames8 = s.frames8 := rfl
@[simp] theorem setReg_clears8 : (s.setReg n w).clears8 = s.clears8 := rfl
@[simp] theorem setReg_execMode : (s.setReg n w).execMode = s.execMode := rfl
@[simp] theorem setReg_stepOverDepth : (s.setReg n w).stepOverDepth = s.stepOverDepth := rfl
@[simp] theorem setReg_cpuState : (s.setReg n w).cpuState = s.cpuState := rfl
@[simp] theorem setReg_breakpoints : (s.setReg n w).breakpoints = s.breakpoints := rfl
@[simp] theorem setReg_cfg : (s.setReg n w).cfg = s.cfg := rfl
@[simp] theorem setReg_program : (s.setReg n w).program = s.program := rfl
@[simp] theorem setReg_phase : (s.setReg n w).phase = s.phase := rfl
@[simp] theorem setReg_inTick : (s.setReg n w).inTick = s.inTick := rfl
@[simp] theorem setReg_frameLeft : (s.setReg n w).frameLeft = s.frameLeft := rfl
@[simp] theorem setReg_draws : (s.setReg n w).draws = s.draws := rfl
@[simp] theorem setReg_inbox : (s.setReg n w).inbox = s.inbox := rfl
end

section
variable (s : State) (k : Nib) (b : Byte)
@[simp] theorem setV_r : (s.setV k b).r = s.r := rfl
@[simp] theorem setV_d : (s.setV k b).d = s.d := rfl
@[simp] theorem setV_df : (s.setV k b).df = s.df := rfl
@[simp] theorem setV_p : (s.setV k b).p = s.p := rfl
@[simp] theorem setV_x : (s.setV k b).x = s.x := rfl
@[simp] theorem setV_i : (s.setV k b).i = s.i := rfl
@[simp] theorem setV_n : (s.setV k b).n = s.n := rfl
@[simp] theorem setV_t : (s.setV k b).t = s.t := rfl
@[simp] theorem setV_ie : (s.setV k b).ie = s.ie := rfl
@[simp] theorem setV_q : (s.setV k b).q = s.q := rfl
@[simp] theorem setV_idle : (s.setV k b).idle = s.idle := rfl
@[simp] theorem setV_fault : (s.setV k b).fault = s.fault := rfl
@[simp] theorem setV_cycles : (s.setV k b).cycles = s.cycles := rfl
@[simp] theorem setV_displayEnabled : (s.setV k b).displayEnabled = s.displayEnabled := rfl
@[simp] theorem setV_bootLatch : (s.setV k b).bootLatch = s.bootLatch := rfl
@[simp] theorem setV_keyLatch : (s.setV k b).keyLatch = s.keyLatch := rfl
@[simp] theorem setV_mem : (s.setV k b).mem = s.mem := rfl
@[simp] theorem setV_pad : (s.setV k b).pad = s.pad := rfl
@[simp] theorem setV_events : (s.setV k b).events = s.events := rfl
@[simp] theorem setV_v : (s.setV k b).v = s.v.set k.toNat b k.isLt := rfl
@[simp] theorem setV_i8 : (s.setV k b).i8 = s.i8 := rfl
@[simp] theorem setV_pc8 : (s.setV k b).pc8 = s.pc8 := rfl
@[simp] theorem setV_stack : (s.setV k b).stack = s.stack := rfl
@[simp] theorem setV_sp8 : (s.setV k b).sp8 = s.sp8 := rfl
@[simp] theorem setV_dt : (s.setV k b).dt = s.dt := rfl
@[simp] theorem setV_st : (s.setV k b).st = s.st := rfl
@[simp] theorem setV_cycles8 : (s.setV k b).cycles8 = s.cycles8 := rfl
@[simp] theorem setV_frames8 : (s.setV k b).frames8 = s.frames8 := rfl
@[simp] theorem setV_clears8 : (s.setV k b).clears8 = s.clears8 := rfl
@[simp] theorem setV_execMode : (s.setV k b).execMode = s.execMode := rfl
@[simp] theorem setV_stepOverDepth : (s.setV k b).stepOverDepth = s.stepOverDepth := rfl
@[simp] theorem setV_cpuState : (s.setV k b).cpuState = s.cpuState := rfl
@[simp] theorem setV_breakpoints : (s.setV k b).breakpoints = s.breakpoints := rfl
@[simp] theorem setV_cfg : (s.setV k b).cfg = s.cfg := rfl
@[simp] theorem setV_program : (s.setV k b).program = s.program := rfl
@[simp] theorem setV_phase : (s.setV k b).phase = s.phase := rfl
@[simp] theorem setV_inTick : (s.setV k b).inTick = s.inTick := rfl
@[simp] theorem setV_frameLeft : (s.setV k b).frameLeft = s.frameLeft := rfl
@[simp] theorem setV_draws : (s.setV k b).draws = s.draws := rfl
@[simp] theorem setV_inbox : (s.setV k b).inbox = s.inbox := rfl
end

section
variable (s : State) 
@[simp] theorem tookDraw_r : (s.tookDraw).r = s.r := rfl
@[simp] theorem tookDraw_d : (s.tookDraw).d = s.d := rfl
@[simp] theorem tookDraw_df : (s.tookDraw).df = s.df := rfl
@[simp] theorem tookDraw_p : (s.tookDraw).p = s.p := rfl
@[simp] theorem tookDraw_x : (s.tookDraw).x = s.x := rfl
@[simp] theorem tookDraw_i : (s.tookDraw).i = s.i := rfl
@[simp] theorem tookDraw_n : (s.tookDraw).n = s.n := rfl
@[simp] theorem tookDraw_t : (s.tookDraw).t = s.t := rfl
@[simp] theorem tookDraw_ie : (s.tookDraw).ie = s.ie := rfl
@[simp] theorem tookDraw_q : (s.tookDraw).q = s.q := rfl
@[simp] theorem tookDraw_idle : (s.tookDraw).idle = s.idle := rfl
@[simp] theorem tookDraw_fault : (s.tookDraw).fault = s.fault := rfl
@[simp] theorem tookDraw_cycles : (s.tookDraw).cycles = s.cycles := rfl
@[simp] theorem tookDraw_displayEnabled : (s.tookDraw).displayEnabled = s.displayEnabled := rfl
@[simp] theorem tookDraw_bootLatch : (s.tookDraw).bootLatch = s.bootLatch := rfl
@[simp] theorem tookDraw_keyLatch : (s.tookDraw).keyLatch = s.keyLatch := rfl
@[simp] theorem tookDraw_mem : (s.tookDraw).mem = s.mem := rfl
@[simp] theorem tookDraw_pad : (s.tookDraw).pad = s.pad := rfl
@[simp] theorem tookDraw_events : (s.tookDraw).events = s.events := rfl
@[simp] theorem tookDraw_v : (s.tookDraw).v = s.v := rfl
@[simp] theorem tookDraw_i8 : (s.tookDraw).i8 = s.i8 := rfl
@[simp] theorem tookDraw_pc8 : (s.tookDraw).pc8 = s.pc8 := rfl
@[simp] theorem tookDraw_stack : (s.tookDraw).stack = s.stack := rfl
@[simp] theorem tookDraw_sp8 : (s.tookDraw).sp8 = s.sp8 := rfl
@[simp] theorem tookDraw_dt : (s.tookDraw).dt = s.dt := rfl
@[simp] theorem tookDraw_st : (s.tookDraw).st = s.st := rfl
@[simp] theorem tookDraw_cycles8 : (s.tookDraw).cycles8 = s.cycles8 := rfl
@[simp] theorem tookDraw_frames8 : (s.tookDraw).frames8 = s.frames8 := rfl
@[simp] theorem tookDraw_clears8 : (s.tookDraw).clears8 = s.clears8 := rfl
@[simp] theorem tookDraw_execMode : (s.tookDraw).execMode = s.execMode := rfl
@[simp] theorem tookDraw_stepOverDepth : (s.tookDraw).stepOverDepth = s.stepOverDepth := rfl
@[simp] theorem tookDraw_cpuState : (s.tookDraw).cpuState = s.cpuState := rfl
@[simp] theorem tookDraw_breakpoints : (s.tookDraw).breakpoints = s.breakpoints := rfl
@[simp] theorem tookDraw_cfg : (s.tookDraw).cfg = s.cfg := rfl
@[simp] theorem tookDraw_program : (s.tookDraw).program = s.program := rfl
@[simp] theorem tookDraw_phase : (s.tookDraw).phase = s.phase := rfl
@[simp] theorem tookDraw_inTick : (s.tookDraw).inTick = s.inTick := rfl
@[simp] theorem tookDraw_frameLeft : (s.tookDraw).frameLeft = s.frameLeft := rfl
@[simp] theorem tookDraw_draws : (s.tookDraw).draws = s.draws + 1 := rfl
@[simp] theorem tookDraw_inbox : (s.tookDraw).inbox = s.inbox := rfl
end

section
variable (s : State) (e : Event)
@[simp] theorem emit_r : (s.emit e).r = s.r := rfl
@[simp] theorem emit_d : (s.emit e).d = s.d := rfl
@[simp] theorem emit_df : (s.emit e).df = s.df := rfl
@[simp] theorem emit_p : (s.emit e).p = s.p := rfl
@[simp] theorem emit_x : (s.emit e).x = s.x := rfl
@[simp] theorem emit_i : (s.emit e).i = s.i := rfl
@[simp] theorem emit_n : (s.emit e).n = s.n := rfl
@[simp] theorem emit_t : (s.emit e).t = s.t := rfl
@[simp] theorem emit_ie : (s.emit e).ie = s.ie := rfl
@[simp] theorem emit_q : (s.emit e).q = s.q := rfl
@[simp] theorem emit_idle : (s.emit e).idle = s.idle := rfl
@[simp] theorem emit_fault : (s.emit e).fault = s.fault := rfl
@[simp] theorem emit_cycles : (s.emit e).cycles = s.cycles := rfl
@[simp] theorem emit_displayEnabled : (s.emit e).displayEnabled = s.displayEnabled := rfl
@[simp] theorem emit_bootLatch : (s.emit e).bootLatch = s.bootLatch := rfl
@[simp] theorem emit_keyLatch : (s.emit e).keyLatch = s.keyLatch := rfl
@[simp] theorem emit_mem : (s.emit e).mem = s.mem := rfl
@[simp] theorem emit_pad : (s.emit e).pad = s.pad := rfl
@[simp] theorem emit_events : (s.emit e).events = e :: s.events := rfl
@[simp] theorem emit_v : (s.emit e).v = s.v := rfl
@[simp] theorem emit_i8 : (s.emit e).i8 = s.i8 := rfl
@[simp] theorem emit_pc8 : (s.emit e).pc8 = s.pc8 := rfl
@[simp] theorem emit_stack : (s.emit e).stack = s.stack := rfl
@[simp] theorem emit_sp8 : (s.emit e).sp8 = s.sp8 := rfl
@[simp] theorem emit_dt : (s.emit e).dt = s.dt := rfl
@[simp] theorem emit_st : (s.emit e).st = s.st := rfl
@[simp] theorem emit_cycles8 : (s.emit e).cycles8 = s.cycles8 := rfl
@[simp] theorem emit_frames8 : (s.emit e).frames8 = s.frames8 := rfl
@[simp] theorem emit_clears8 : (s.emit e).clears8 = s.clears8 := rfl
@[simp] theorem emit_execMode : (s.emit e).execMode = s.execMode := rfl
@[simp] theorem emit_stepOverDepth : (s.emit e).stepOverDepth = s.stepOverDepth := rfl
@[simp] theorem emit_cpuState : (s.emit e).cpuState = s.cpuState := rfl
@[simp] theorem emit_breakpoints : (s.emit e).breakpoints = s.breakpoints := rfl
@[simp] theorem emit_cfg : (s.emit e).cfg = s.cfg := rfl
@[simp] theorem emit_program : (s.emit e).program = s.program := rfl
@[simp] theorem emit_phase : (s.emit e).phase = s.phase := rfl
@[simp] theorem emit_inTick : (s.emit e).inTick = s.inTick := rfl
@[simp] theorem emit_frameLeft : (s.emit e).frameLeft = s.frameLeft := rfl
@[simp] theorem emit_draws : (s.emit e).draws = s.draws := rfl
@[simp] theorem emit_inbox : (s.emit e).inbox = s.inbox := rfl
end

section
variable (s : State) (k : Nat) (a : Addr8)
@[simp] theorem setStack_r : (s.setStack k a).r = s.r := rfl
@[simp] theorem setStack_d : (s.setStack k a).d = s.d := rfl
@[simp] theorem setStack_df : (s.setStack k a).df = s.df := rfl
@[simp] theorem setStack_p : (s.setStack k a).p = s.p := rfl
@[simp] theorem setStack_x : (s.setStack k a).x = s.x := rfl
@[simp] theorem setStack_i : (s.setStack k a).i = s.i := rfl
@[simp] theorem setStack_n : (s.setStack k a).n = s.n := rfl
@[simp] theorem setStack_t : (s.setStack k a).t = s.t := rfl
@[simp] theorem setStack_ie : (s.setStack k a).ie = s.ie := rfl
@[simp] theorem setStack_q : (s.setStack k a).q = s.q := rfl
@[simp] theorem setStack_idle : (s.setStack k a).idle = s.idle := rfl
@[simp] theorem setStack_fault : (s.setStack k a).fault = s.fault := rfl
@[simp] theorem setStack_cycles : (s.setStack k a).cycles = s.cycles := rfl
@[simp] theorem setStack_displayEnabled : (s.setStack k a).displayEnabled = s.displayEnabled := rfl
@[simp] theorem setStack_bootLatch : (s.setStack k a).bootLatch = s.bootLatch := rfl
@[simp] theorem setStack_keyLatch : (s.setStack k a).keyLatch = s.keyLatch := rfl
@[simp] theorem setStack_mem : (s.setStack k a).mem = s.mem := rfl
@[simp] theorem setStack_pad : (s.setStack k a).pad = s.pad := rfl
@[simp] theorem setStack_events : (s.setStack k a).events = s.events := rfl
@[simp] theorem setStack_v : (s.setStack k a).v = s.v := rfl
@[simp] theorem setStack_i8 : (s.setStack k a).i8 = s.i8 := rfl
@[simp] theorem setStack_pc8 : (s.setStack k a).pc8 = s.pc8 := rfl
@[simp] theorem setStack_stack : (s.setStack k a).stack = s.stack.set (k % 16) a (Nat.mod_lt k (by decide)) := rfl
@[simp] theorem setStack_sp8 : (s.setStack k a).sp8 = s.sp8 := rfl
@[simp] theorem setStack_dt : (s.setStack k a).dt = s.dt := rfl
@[simp] theorem setStack_st : (s.setStack k a).st = s.st := rfl
@[simp] theorem setStack_cycles8 : (s.setStack k a).cycles8 = s.cycles8 := rfl
@[simp] theorem setStack_frames8 : (s.setStack k a).frames8 = s.frames8 := rfl
@[simp] theorem setStack_clears8 : (s.setStack k a).clears8 = s.clears8 := rfl
@[simp] theorem setStack_execMode : (s.setStack k a).execMode = s.execMode := rfl
@[simp] theorem setStack_stepOverDepth : (s.setStack k a).stepOverDepth = s.stepOverDepth := rfl
@[simp] theorem setStack_cpuState : (s.setStack k a).cpuState = s.cpuState := rfl
@[simp] theorem setStack_breakpoints : (s.setStack k a).breakpoints = s.breakpoints := rfl
@[simp] theorem setStack_cfg : (s.setStack k a).cfg = s.cfg := rfl
@[simp] theorem setStack_program : (s.setStack k a).program = s.program := rfl
@[simp] theorem setStack_phase : (s.setStack k a).phase = s.phase := rfl
@[simp] theorem setStack_inTick : (s.setStack k a).inTick = s.inTick := rfl
@[simp] theorem setStack_frameLeft : (s.setStack k a).frameLeft = s.frameLeft := rfl
@[simp] theorem setStack_draws : (s.setStack k a).draws = s.draws := rfl
@[simp] theorem setStack_inbox : (s.setStack k a).inbox = s.inbox := rfl
end

section
variable (s : State) (f : FaultInfo)
@[simp] theorem enterFault_r : (enterFault f s).r = s.r := rfl
@[simp] theorem enterFault_d : (enterFault f s).d = s.d := rfl
@[simp] theorem enterFault_df : (enterFault f s).df = s.df := rfl
@[simp] theorem enterFault_p : (enterFault f s).p = s.p := rfl
@[simp] theorem enterFault_x : (enterFault f s).x = s.x := rfl
@[simp] theorem enterFault_i : (enterFault f s).i = s.i := rfl
@[simp] theorem enterFault_n : (enterFault f s).n = s.n := rfl
@[simp] theorem enterFault_t : (enterFault f s).t = s.t := rfl
@[simp] theorem enterFault_ie : (enterFault f s).ie = s.ie := rfl
@[simp] theorem enterFault_q : (enterFault f s).q = s.q := rfl
@[simp] theorem enterFault_idle : (enterFault f s).idle = s.idle := rfl
@[simp] theorem enterFault_fault : (enterFault f s).fault = some f := rfl
@[simp] theorem enterFault_cycles : (enterFault f s).cycles = s.cycles := rfl
@[simp] theorem enterFault_displayEnabled : (enterFault f s).displayEnabled = s.displayEnabled := rfl
@[simp] theorem enterFault_bootLatch : (enterFault f s).bootLatch = s.bootLatch := rfl
@[simp] theorem enterFault_keyLatch : (enterFault f s).keyLatch = s.keyLatch := rfl
@[simp] theorem enterFault_mem : (enterFault f s).mem = s.mem := rfl
@[simp] theorem enterFault_pad : (enterFault f s).pad = s.pad := rfl
@[simp] theorem enterFault_events : (enterFault f s).events = s.events := rfl
@[simp] theorem enterFault_v : (enterFault f s).v = s.v := rfl
@[simp] theorem enterFault_i8 : (enterFault f s).i8 = s.i8 := rfl
@[simp] theorem enterFault_pc8 : (enterFault f s).pc8 = s.pc8 := rfl
@[simp] theorem enterFault_stack : (enterFault f s).stack = s.stack := rfl
@[simp] theorem enterFault_sp8 : (enterFault f s).sp8 = s.sp8 := rfl
@[simp] theorem enterFault_dt : (enterFault f s).dt = s.dt := rfl
@[simp] theorem enterFault_st : (enterFault f s).st = s.st := rfl
@[simp] theorem enterFault_cycles8 : (enterFault f s).cycles8 = s.cycles8 := rfl
@[simp] theorem enterFault_frames8 : (enterFault f s).frames8 = s.frames8 := rfl
@[simp] theorem enterFault_clears8 : (enterFault f s).clears8 = s.clears8 := rfl
@[simp] theorem enterFault_execMode : (enterFault f s).execMode = .paused := rfl
@[simp] theorem enterFault_stepOverDepth : (enterFault f s).stepOverDepth = s.stepOverDepth := rfl
@[simp] theorem enterFault_cpuState : (enterFault f s).cpuState = .error := rfl
@[simp] theorem enterFault_breakpoints : (enterFault f s).breakpoints = s.breakpoints := rfl
@[simp] theorem enterFault_cfg : (enterFault f s).cfg = s.cfg := rfl
@[simp] theorem enterFault_program : (enterFault f s).program = s.program := rfl
@[simp] theorem enterFault_phase : (enterFault f s).phase = s.phase := rfl
@[simp] theorem enterFault_inTick : (enterFault f s).inTick = false := rfl
@[simp] theorem enterFault_frameLeft : (enterFault f s).frameLeft = s.frameLeft := rfl
@[simp] theorem enterFault_draws : (enterFault f s).draws = s.draws := rfl
@[simp] theorem enterFault_inbox : (enterFault f s).inbox = s.inbox := rfl
end

section
variable (s : State) 
@[simp] theorem countCycles_r : (countCycles s).r = s.r := rfl
@[simp] theorem countCycles_d : (countCycles s).d = s.d := rfl
@[simp] theorem countCycles_df : (countCycles s).df = s.df := rfl
@[simp] theorem countCycles_p : (countCycles s).p = s.p := rfl
@[simp] theorem countCycles_x : (countCycles s).x = s.x := rfl
@[simp] theorem countCycles_i : (countCycles s).i = s.i := rfl
@[simp] theorem countCycles_n : (countCycles s).n = s.n := rfl
@[simp] theorem countCycles_t : (countCycles s).t = s.t := rfl
@[simp] theorem countCycles_ie : (countCycles s).ie = s.ie := rfl
@[simp] theorem countCycles_q : (countCycles s).q = s.q := rfl
@[simp] theorem countCycles_idle : (countCycles s).idle = s.idle := rfl
@[simp] theorem countCycles_fault : (countCycles s).fault = s.fault := rfl
@[simp] theorem countCycles_cycles : (countCycles s).cycles = s.cycles + (if s.i = 0xC#4 then 3 else 2) := rfl
@[simp] theorem countCycles_displayEnabled : (countCycles s).displayEnabled = s.displayEnabled := rfl
@[simp] theorem countCycles_bootLatch : (countCycles s).bootLatch = s.bootLatch := rfl
@[simp] theorem countCycles_keyLatch : (countCycles s).keyLatch = s.keyLatch := rfl
@[simp] theorem countCycles_mem : (countCycles s).mem = s.mem := rfl
@[simp] theorem countCycles_pad : (countCycles s).pad = s.pad := rfl
@[simp] theorem countCycles_events : (countCycles s).events = s.events := rfl
@[simp] theorem countCycles_v : (countCycles s).v = s.v := rfl
@[simp] theorem countCycles_i8 : (countCycles s).i8 = s.i8 := rfl
@[simp] theorem countCycles_pc8 : (countCycles s).pc8 = s.pc8 := rfl
@[simp] theorem countCycles_stack : (countCycles s).stack = s.stack := rfl
@[simp] theorem countCycles_sp8 : (countCycles s).sp8 = s.sp8 := rfl
@[simp] theorem countCycles_dt : (countCycles s).dt = s.dt := rfl
@[simp] theorem countCycles_st : (countCycles s).st = s.st := rfl
@[simp] theorem countCycles_cycles8 : (countCycles s).cycles8 = s.cycles8 := rfl
@[simp] theorem countCycles_frames8 : (countCycles s).frames8 = s.frames8 := rfl
@[simp] theorem countCycles_clears8 : (countCycles s).clears8 = s.clears8 := rfl
@[simp] theorem countCycles_execMode : (countCycles s).execMode = s.execMode := rfl
@[simp] theorem countCycles_stepOverDepth : (countCycles s).stepOverDepth = s.stepOverDepth := rfl
@[simp] theorem countCycles_cpuState : (countCycles s).cpuState = s.cpuState := rfl
@[simp] theorem countCycles_breakpoints : (countCycles s).breakpoints = s.breakpoints := rfl
@[simp] theorem countCycles_cfg : (countCycles s).cfg = s.cfg := rfl
@[simp] theorem countCycles_program : (countCycles s).program = s.program := rfl
@[simp] theorem countCycles_phase : (countCycles s).phase = s.phase := rfl
@[simp] theorem countCycles_inTick : (countCycles s).inTick = s.inTick := rfl
@[simp] theorem countCycles_frameLeft : (countCycles s).frameLeft = s.frameLeft := rfl
@[simp] theorem countCycles_draws : (countCycles s).draws = s.draws := rfl
@[simp] theorem countCycles_inbox : (countCycles s).inbox = s.inbox := rfl
end

section
variable (s : State) (op : Byte)
@[simp] theorem fetched_r : (fetched op s).r = s.r.set s.p.toNat (s.pc + 1) s.p.isLt := rfl
@[simp] theorem fetched_d : (fetched op s).d = s.d := rfl
@[simp] theorem fetched_df : (fetched op s).df = s.df := rfl
@[simp] theorem fetched_p : (fetched op s).p = s.p := rfl
@[simp] theorem fetched_x : (fetched op s).x = s.x := rfl
@[simp] theorem fetched_i : (fetched op s).i = hiNib op := rfl
@[simp] theorem fetched_n : (fetched op s).n = loNib op := rfl
@[simp] theorem fetched_t : (fetched op s).t = s.t := rfl
@[simp] theorem fetched_ie : (fetched op s).ie = s.ie := rfl
@[simp] theorem fetched_q : (fetched op s).q = s.q := rfl
@[simp] theorem fetched_idle : (fetched op s).idle = s.idle := rfl
@[simp] theorem fetched_fault : (fetched op s).fault = s.fault := rfl
@[simp] theorem fetched_cycles : (fetched op s).cycles = s.cycles := rfl
@[simp] theorem fetched_displayEnabled : (fetched op s).displayEnabled = s.displayEnabled := rfl
@[simp] theorem fetched_bootLatch : (fetched op s).bootLatch = s.bootLatch := rfl
@[simp] theorem fetched_keyLatch : (fetched op s).keyLatch = s.keyLatch := rfl
@[simp] theorem fetched_mem : (fetched op s).mem = s.mem := rfl
@[simp] theorem fetched_pad : (fetched op s).pad = s.pad := rfl
@[simp] theorem fetched_events : (fetched op s).events = s.events := rfl
@[simp] theorem fetched_v : (fetched op s).v = s.v := rfl
@[simp] theorem fetched_i8 : (fetched op s).i8 = s.i8 := rfl
@[simp] theorem fetched_pc8 : (fetched op s).pc8 = s.pc8 := rfl
@[simp] theorem fetched_stack : (fetched op s).stack = s.stack := rfl
@[simp] theorem fetched_sp8 : (fetched op s).sp8 = s.sp8 := rfl
@[simp] theorem fetched_dt : (fetched op s).dt = s.dt := rfl
@[simp] theorem fetched_st : (fetched op s).st = s.st := rfl
@[simp] theorem fetched_cycles8 : (fetched op s).cycles8 = s.cycles8 := rfl
@[simp] theorem fetched_frames8 : (fetched op s).frames8 = s.frames8 := rfl
@[simp] theorem fetched_clears8 : (fetched op s).clears8 = s.clears8 := rfl
@[simp] theorem fetched_execMode : (fetched op s).execMode = s.execMode := rfl
@[simp] theorem fetched_stepOverDepth : (fetched op s).stepOverDepth = s.stepOverDepth := rfl
@[simp] theorem fetched_cpuState : (fetched op s).cpuState = s.cpuState := rfl
@[simp] theorem fetched_breakpoints : (fetched op s).breakpoints = s.breakpoints := rfl
@[simp] theorem fetched_cfg : (fetched op s).cfg = s.cfg := rfl
@[simp] theorem fetched_program : (fetched op s).program = s.program := rfl
@[simp] theorem fetched_phase : (fetched op s).phase = s.phase := rfl
@[simp] theorem fetched_inTick : (fetched op s).inTick = s.inTick := rfl
@[simp] theorem fetched_frameLeft : (fetched op s).frameLeft = s.frameLeft := rfl
@[simp] theorem fetched_draws : (fetched op s).draws = s.draws := rfl
@[simp] theorem fetched_inbox : (fetched op s).inbox = s.inbox := rfl
end

section
variable (s : State) 
@[simp] theorem fetched8_r : (fetched8 s).r = s.r := rfl
@[simp] theorem fetched8_d : (fetched8 s).d = s.d := rfl
@[simp] theorem fetched8_df : (fetched8 s).df = s.df := rfl
@[simp] theorem fetched8_p : (fetched8 s).p = s.p := rfl
@[simp] theorem fetched8_x : (fetched8 s).x = s.x := rfl
@[simp] theorem fetched8_i : (fetched8 s).i = s.i := rfl
@[simp] theorem fetched8_n : (fetched8 s).n = s.n := rfl
@[simp] theorem fetched8_t : (fetched8 s).t = s.t := rfl
@[simp] theorem fetched8_ie : (fetched8 s).ie = s.ie := rfl
@[simp] theorem fetched8_q : (fetched8 s).q = s.q := rfl
@[simp] theorem fetched8_idle : (fetched8 s).idle = s.idle := rfl
@[simp] theorem fetched8_fault : (fetched8 s).fault = s.fault := rfl
@[simp] theorem fetched8_cycles : (fetched8 s).cycles = s.cycles := rfl
@[simp] theorem fetched8_displayEnabled : (fetched8 s).displayEnabled = s.displayEnabled := rfl
@[simp] theorem fetched8_bootLatch : (fetched8 s).bootLatch = s.bootLatch := rfl
@[simp] theorem fetched8_keyLatch : (fetched8 s).keyLatch = s.keyLatch := rfl
@[simp] theorem fetched8_mem : (fetched8 s).mem = s.mem := rfl
@[simp] theorem fetched8_pad : (fetched8 s).pad = s.pad := rfl
@[simp] theorem fetched8_events : (fetched8 s).events = s.events := rfl
@[simp] theorem fetched8_v : (fetched8 s).v = s.v := rfl
@[simp] theorem fetched8_i8 : (fetched8 s).i8 = s.i8 := rfl
@[simp] theorem fetched8_pc8 : (fetched8 s).pc8 = trim s.cfg.space (s.pc8 + 2) := rfl
@[simp] theorem fetched8_stack : (fetched8 s).stack = s.stack := rfl
@[simp] theorem fetched8_sp8 : (fetched8 s).sp8 = s.sp8 := rfl
@[simp] theorem fetched8_dt : (fetched8 s).dt = s.dt := rfl
@[simp] theorem fetched8_st : (fetched8 s).st = s.st := rfl
@[simp] theorem fetched8_cycles8 : (fetched8 s).cycles8 = s.cycles8 + 1 := rfl
@[simp] theorem fetched8_frames8 : (fetched8 s).frames8 = s.frames8 := rfl
@[simp] theorem fetched8_clears8 : (fetched8 s).clears8 = s.clears8 := rfl
@[simp] theorem fetched8_execMode : (fetched8 s).execMode = s.execMode := rfl
@[simp] theorem fetched8_stepOverDepth : (fetched8 s).stepOverDepth = s.stepOverDepth := rfl
@[simp] theorem fetched8_cpuState : (fetched8 s).cpuState = s.cpuState := rfl
@[simp] theorem fetched8_breakpoints : (fetched8 s).breakpoints = s.breakpoints := rfl
@[simp] theorem fetched8_cfg : (fetched8 s).cfg = s.cfg := rfl
@[simp] theorem fetched8_program : (fetched8 s).program = s.program := rfl
@[simp] theorem fetched8_phase : (fetched8 s).phase = s.phase := rfl
@[simp] theorem fetched8_inTick : (fetched8 s).inTick = s.inTick := rfl
@[simp] theorem fetched8_frameLeft : (fetched8 s).frameLeft = s.frameLeft := rfl
@[simp] theorem fetched8_draws : (fetched8 s).draws = s.draws := rfl
@[simp] theorem fetched8_inbox : (fetched8 s).inbox = s.inbox := rfl
end

section
variable (s : State) (a : Nat) (b : Byte)
@[simp] theorem write8_r : (write8 s a b).r = s.r := rfl
@[simp] theorem write8_d : (write8 s a b).d = s.d := rfl
@[simp] theorem write8_df : (write8 s a b).df = s.df := rfl
@[simp] theorem write8_p : (write8 s a b).p = s.p := rfl
@[simp] theorem write8_x : (write8 s a b).x = s.x := rfl
@[simp] theorem write8_i : (write8 s a b).i = s.i := rfl
@[simp] theorem write8_n : (write8 s a b).n = s.n := rfl
@[simp] theorem write8_t : (write8 s a b).t = s.t := rfl
@[simp] theorem write8_ie : (write8 s a b).ie = s.ie := rfl
@[simp] theorem write8_q : (write8 s a b).q = s.q := rfl
@[simp] theorem write8_idle : (write8 s a b).idle = s.idle := rfl
@[simp] theorem write8_fault : (write8 s a b).fault = s.fault := rfl
@[simp] theorem write8_cycles : (write8 s a b).cycles = s.cycles := rfl
@[simp] theorem write8_displayEnabled : (write8 s a b).displayEnabled = s.displayEnabled := rfl
@[simp] theorem write8_bootLatch : (write8 s a b).bootLatch = s.bootLatch := rfl
@[simp] theorem write8_keyLatch : (write8 s a b).keyLatch = s.keyLatch := rfl
@[simp] theorem write8_mem : (write8 s a b).mem = s.mem.write (a % s.cfg.memSize) b := rfl
@[simp] theorem write8_pad : (write8 s a b).pad = if a % s.cfg.memSize = 0 then b else s.pad := rfl
@[simp] theorem write8_events : (write8 s a b).events = s.events := rfl
@[simp] theorem write8_v : (write8 s a b).v = s.v := rfl
@[simp] theorem write8_i8 : (write8 s a b).i8 = s.i8 := rfl
@[simp] theorem write8_pc8 : (write8 s a b).pc8 = s.pc8 := rfl
@[simp] theorem write8_stack : (write8 s a b).stack = s.stack := rfl
@[simp] theorem write8_sp8 : (write8 s a b).sp8 = s.sp8 := rfl
@[simp] theorem write8_dt : (write8 s a b).dt = s.dt := rfl
@[simp] theorem write8_st : (write8 s a b).st = s.st := rfl
@[simp] theorem write8_cycles8 : (write8 s a b).cycles8 = s.cycles8 := rfl
@[simp] theorem write8_frames8 : (write8 s a b).frames8 = s.frames8 := rfl
@[simp] theorem write8_clears8 : (write8 s a b).clears8 = s.clears8 := rfl
@[simp] theorem write8_execMode : (write8 s a b).execMode = s.execMode := rfl
@[simp] theorem write8_stepOverDepth : (write8 s a b).stepOverDepth = s.stepOverDepth := rfl
@[simp] theorem write8_cpuState : (write8 s a b).cpuState = s.cpuState := rfl
@[simp] theorem write8_breakpoints : (write8 s a b).breakpoints = s.breakpoints := rfl
@[simp] theorem write8_cfg : (write8 s a b).cfg = s.cfg := rfl
@[simp] theorem write8_program : (write8 s a b).program = s.program := rfl
@[simp] theorem write8_phase : (write8 s a b).phase = s.phase := rfl
@[simp] theorem write8_inTick : (write8 s a b).inTick = s.inTick := rfl
@[simp] theorem write8_frameLeft : (write8 s a b).frameLeft = s.frameLeft := rfl
@[simp] theorem write8_draws : (write8 s a b).draws = s.draws := rfl
@[simp] theorem write8_inbox : (write8 s a b).inbox = s.inbox := rfl
end

end Sys2Proof.Machine
end

