-- ==== Sys2Proof/Laws/Memory.lean ====
section
/-! SUPPORT. The laws of memory as data: read after write, and every operation keeps the canonical form. -/

namespace Sys2Proof.Machine

@[simp] theorem Memory.read_write_same (m : Memory) (a : Nat) (v : Byte) : (m.write a v).read a = v := by
  induction m with
  | nil =>
    by_cases h : v = Memory.unlisted a <;> simp [Memory.write, Memory.read, h]
  | cons c m ih =>
    obtain ⟨b, w⟩ := c
    simp only [Memory.write]
    split_ifs with h1 h2 h3
    · exact ih
    · simp [Memory.read]
    · simp [Memory.read]
    · simp [Memory.read, h1, ih]

theorem Memory.read_write_ne (m : Memory) (a b : Nat) (v : Byte) (h : b ≠ a) :
    (m.write a v).read b = m.read b := by
  induction m with
  | nil =>
    by_cases hv : v = Memory.unlisted a <;> simp [Memory.write, Memory.read, hv, h]
  | cons c m ih =>
    obtain ⟨c, w⟩ := c
    simp only [Memory.write]
    split_ifs with h1 h2 h3
    · subst h1; simp [Memory.read, h, ih]
    · subst h1; simp [Memory.read, h]
    · simp [Memory.read, h]
    · simp [Memory.read, ih]

theorem Memory.read_write (m : Memory) (a b : Nat) (v : Byte) :
    (m.write a v).read b = if b = a then v else m.read b := by
  split_ifs with h
  · subst h; simp
  · exact m.read_write_ne a b v h

/-- A write adds no address but its own. -/
theorem Memory.mem_write {m : Memory} {a : Nat} {v : Byte} {c : Host.Cell} (h : c ∈ m.write a v) :
    (c = (a, v) ∧ v ≠ Memory.unlisted a) ∨ (c ∈ m) := by
  induction m with
  | nil =>
    simp only [Memory.write] at h
    split_ifs at h with hv
    · simp at h
    · simp only [List.mem_singleton] at h; exact .inl ⟨h, hv⟩
  | cons d m ih =>
    obtain ⟨b, w⟩ := d
    simp only [Memory.write] at h
    split_ifs at h with h1 h2 h3
    · rcases ih h with h | h
      · exact .inl h
      · exact .inr (List.mem_cons_of_mem _ h)
    · rcases List.mem_cons.1 h with h | h
      · exact .inl ⟨h, h2⟩
      · exact .inr (List.mem_cons_of_mem _ h)
    · rcases List.mem_cons.1 h with h | h
      · exact .inl ⟨h, h3.2⟩
      · exact .inr h
    · rcases List.mem_cons.1 h with h | h
      · exact .inr (by simp [h])
      · rcases ih h with h | h
        · exact .inl h
        · exact .inr (List.mem_cons_of_mem _ h)

/-- A write keeps the addresses strictly rising. -/
theorem Memory.write_pairwise (m : Memory) (a : Nat) (v : Byte) (h : m.Pairwise (fun c c' => c.1 < c'.1)) :
    (m.write a v).Pairwise (fun c c' => c.1 < c'.1) := by
  induction m with
  | nil => by_cases hv : v = Memory.unlisted a <;> simp [Memory.write, hv]
  | cons d m ih =>
    obtain ⟨b, w⟩ := d
    rw [List.pairwise_cons] at h
    simp only [Memory.write]
    split_ifs with h1 h2 h3
    · exact ih h.2
    · subst h1; exact List.pairwise_cons.2 ⟨h.1, h.2⟩
    · refine List.pairwise_cons.2 ⟨?_, List.pairwise_cons.2 h⟩
      intro c hc
      rcases List.mem_cons.1 hc with hc | hc
      · subst hc; exact h3.1
      · exact lt_trans h3.1 (h.1 c hc)
    · refine List.pairwise_cons.2 ⟨?_, ih h.2⟩
      intro c hc
      rcases Memory.mem_write hc with ⟨hc, hv⟩ | hc
      · subst hc
        have hle : ¬ a < b := fun hab => h3 ⟨hab, hv⟩
        show b < a
        omega
      · exact h.1 c hc

/-- A write keeps the canonical form. -/
theorem Memory.write_wf {m : Memory} (h : Memory.wf m) (a : Nat) (v : Byte) : Memory.wf (m.write a v) := by
  refine ⟨m.write_pairwise a v h.1, fun c hc => ?_⟩
  rcases Memory.mem_write hc with ⟨hc, hv⟩ | hc
  · subst hc; exact hv
  · exact h.2 c hc

/-- Writing a list of bytes keeps the canonical form. -/
theorem Memory.writeList_wf (bytes : List Byte) {m : Memory} (h : Memory.wf m) (a : Nat) :
    Memory.wf (m.writeList a bytes) := by
  induction bytes generalizing m a with
  | nil => exact h
  | cons b bs ih => exact ih (Memory.write_wf h a b) (a + 1)

/-- Writing a list of bytes leaves the addresses outside its range alone. -/
theorem Memory.read_writeList_ne (bytes : List Byte) (m : Memory) (a b : Nat)
    (h : b < a ∨ a + bytes.length ≤ b) : (m.writeList a bytes).read b = m.read b := by
  induction bytes generalizing m a with
  | nil => rfl
  | cons c cs ih =>
    simp only [List.length_cons] at h
    simp only [Memory.writeList]
    rw [ih _ _ (by omega), Memory.read_write_ne _ _ _ _ (by omega)]

/-- Every address a written list adds lies in its range. -/
theorem Memory.mem_writeList (bytes : List Byte) {m : Memory} {a : Nat} {c : Host.Cell}
    (h : c ∈ m.writeList a bytes) : c ∈ m ∨ (a ≤ c.1 ∧ c.1 < a + bytes.length) := by
  induction bytes generalizing m a with
  | nil => exact .inl h
  | cons b bs ih =>
    simp only [List.length_cons]
    rcases ih h with h | h
    · rcases Memory.mem_write h with ⟨h, -⟩ | h
      · subst h; right; simp
      · exact .inl h
    · right; omega

/-- The empty memory is canonical. -/
theorem Memory.nil_wf : Memory.wf [] := by simp [Memory.wf]

/-- `write8` keeps the canonical form. -/
theorem write8_wf {s : State} (h : Memory.wf s.mem) (a : Nat) (b : Byte) : Memory.wf (write8 s a b).mem :=
  Memory.write_wf h _ _

theorem inRam_iff (ea : Nat) : inRam ea = true ↔ ea < 0x1000 := by
  simp [inRam, Config.ramBase, Config.ramSize]

theorem inRom_iff (ea : Nat) : inRom ea = true ↔ 0x8000 ≤ ea ∧ ea < 0x8200 := by
  simp only [inRom, Bool.and_eq_true, decide_eq_true_eq]
  exact Iff.rfl

/-- No address lies in both windows. -/
theorem not_inRom_of_inRam {ea : Nat} (h : inRam ea = true) : inRom ea = false := by
  rw [inRam_iff] at h
  rw [Bool.eq_false_iff, ne_eq, inRom_iff]
  omega

/-- Everything `memRead` can answer (20_memory R50). -/
theorem memRead_cases (s : State) (a : Word) :
    (inRam (effAddr s a).toNat = true ∧ memRead s a = .ok (s.mem.read (effAddr s a).toNat)) ∨
    (inRom (effAddr s a).toNat = true ∧ memRead s a = .ok (Config.romMonitor ((effAddr s a).toNat - 0x8000))) ∨
    (inRam (effAddr s a).toNat = false ∧ inRom (effAddr s a).toNat = false ∧
      memRead s a = .error (.hardwareFault .read a)) := by
  cases h1 : inRam (effAddr s a).toNat
  · cases h2 : inRom (effAddr s a).toNat
    · exact .inr (.inr ⟨rfl, rfl, by simp only [memRead, h1, h2]; rfl⟩)
    · exact .inr (.inl ⟨rfl, by simp only [memRead, h1, h2]; rfl⟩)
  · exact .inl ⟨rfl, by simp only [memRead, h1]; rfl⟩

/-- Everything `memWrite` can answer (20_memory R51). -/
theorem memWrite_cases (s : State) (a : Word) (v : Byte) :
    (inRam (effAddr s a).toNat = true ∧
      memWrite s a v = .ok { s with mem := s.mem.write (effAddr s a).toNat v }) ∨
    (inRom (effAddr s a).toNat = true ∧ s.cfg.romWrite = .ignore ∧ memWrite s a v = .ok s) ∨
    (inRam (effAddr s a).toNat = false ∧ (inRom (effAddr s a).toNat = false ∨ s.cfg.romWrite = .fault) ∧
      memWrite s a v = .error (.hardwareFault .write a)) := by
  cases h1 : inRam (effAddr s a).toNat
  · cases h2 : inRom (effAddr s a).toNat
    · exact .inr (.inr ⟨rfl, .inl rfl, by simp only [memWrite, h1, h2]; rfl⟩)
    · cases h3 : s.cfg.romWrite
      · exact .inr (.inr ⟨rfl, .inr rfl, by simp only [memWrite, h1, h2, h3]; rfl⟩)
      · exact .inr (.inl ⟨rfl, rfl, by simp only [memWrite, h1, h2, h3]; rfl⟩)
  · exact .inl ⟨rfl, by simp only [memWrite, h1]; rfl⟩

/-- An allowed `memWrite` keeps everything but memory, and keeps memory canonical. -/
theorem memWrite_ok {s t : State} {a : Word} {v : Byte} (h : memWrite s a v = .ok t) :
    t = { s with mem := t.mem } ∧ (Memory.wf s.mem → Memory.wf t.mem) := by
  rcases memWrite_cases s a v with ⟨-, e⟩ | ⟨-, -, e⟩ | ⟨-, -, e⟩
  · rw [e] at h; cases h; exact ⟨rfl, fun w => Memory.write_wf w _ _⟩
  · rw [e] at h; cases h; exact ⟨rfl, id⟩
  · rw [e] at h; cases h

end Sys2Proof.Machine
end

