-- ==== Sys2Proof/Laws/Registers.lean ====
section
/-! SUPPORT. Reading a register after writing one. -/

namespace Sys2Proof.Machine

theorem reg_of_r {s t : State} (h : t.r = s.r) (n : Nib) : t.reg n = s.reg n := by simp [State.reg, h]

theorem vreg_of_v {s t : State} (h : t.v = s.v) (k : Nib) : t.vreg k = s.vreg k := by simp [State.vreg, h]

theorem reg_setReg (s : State) (n k : Nib) (w : Word) :
    (s.setReg n w).reg k = if k = n then w else s.reg k := by
  have hn : n.toNat < 16 := n.isLt
  have hk : k.toNat < 16 := k.isLt
  simp only [State.reg, State.setReg, Vector.get_eq_getElem, Vector.getElem_set]
  by_cases h : k = n
  · simp [h]
  · have : n.toNat ≠ k.toNat := fun e => h (BitVec.eq_of_toNat_eq e.symm)
    simp [h, this]

@[simp] theorem reg_setReg_same (s : State) (n : Nib) (w : Word) : (s.setReg n w).reg n = w := by
  simp [reg_setReg]

theorem vreg_setV (s : State) (n k : Nib) (b : Byte) :
    (s.setV n b).vreg k = if k = n then b else s.vreg k := by
  have hn : n.toNat < 16 := n.isLt
  have hk : k.toNat < 16 := k.isLt
  simp only [State.vreg, State.setV, Vector.get_eq_getElem, Vector.getElem_set]
  by_cases h : k = n
  · simp [h]
  · have : n.toNat ≠ k.toNat := fun e => h (BitVec.eq_of_toNat_eq e.symm)
    simp [h, this]

@[simp] theorem vreg_setV_same (s : State) (n : Nib) (b : Byte) : (s.setV n b).vreg n = b := by simp [vreg_setV]

theorem stackAt_setStack (s : State) (j k : Nat) (a : Addr8) :
    (s.setStack j a).stackAt k = if k % 16 = j % 16 then a else s.stackAt k := by
  simp only [State.stackAt, State.setStack, Vector.get_eq_getElem, Vector.getElem_set]
  by_cases h : k % 16 = j % 16
  · simp [h]
  · have : ¬ j % 16 = k % 16 := fun e => h e.symm
    simp [h, this]

/-- The register file after the fetch: `R[P]` has advanced, the others are as before. -/
theorem reg_fetched (s : State) (op : Byte) (k : Nib) :
    (fetched op s).reg k = if k = s.p then s.pc + 1 else s.reg k := by
  have : (fetched op s).reg k = (s.setReg s.p (s.pc + 1)).reg k := rfl
  rw [this, reg_setReg]

@[simp] theorem pc_fetched (s : State) (op : Byte) : (fetched op s).pc = s.pc + 1 := by
  simp [State.pc, reg_fetched]

/-- Neither the fetch nor any update of a register changes what a memory access answers. -/
theorem memRead_congr {s t : State} (hm : t.mem = s.mem) (hb : t.bootLatch = s.bootLatch) (a : Word) :
    memRead t a = memRead s a := by
  have e : effAddr t a = effAddr s a := by simp only [effAddr, hb]
  simp only [memRead, e, hm]

@[simp] theorem memRead_fetched (s : State) (op : Byte) (a : Word) : memRead (fetched op s) a = memRead s a := rfl

@[simp] theorem memRead_setReg (s : State) (n : Nib) (w a : Word) : memRead (s.setReg n w) a = memRead s a := rfl

/-- A width reduction fits the width. -/
theorem trim_toNat (w : AddrWidth) (a : Addr8) : (trim w a).toNat = a.toNat % 2 ^ w.bits := by
  have h1 : a.toNat % 2 ^ w.bits ≤ a.toNat := Nat.mod_le _ _
  have h2 : a.toNat < 2 ^ 24 := a.isLt
  simp only [trim, BitVec.toNat_ofNat]
  exact Nat.mod_eq_of_lt (by omega)

theorem trim_lt (w : AddrWidth) (a : Addr8) : (trim w a).toNat < 2 ^ w.bits := by
  rw [trim_toNat]; exact Nat.mod_lt _ (Nat.two_pow_pos _)

end Sys2Proof.Machine
end

