-- ==== Sys2Proof/Laws/Operations.lean ====
section
/-! SUPPORT. For each shared operation, everything it can answer; the frames of instructions and handlers. -/

namespace Sys2Proof.Machine

theorem reg_setPc (s : State) (k : Nib) (w : Word) : (s.setPc w).reg k = if k = s.p then w else s.reg k :=
  reg_setReg s s.p k w

@[simp] theorem reg_countCycles (s : State) (k : Nib) : (countCycles s).reg k = s.reg k := rfl

/-! ## Nibbles and bytes -/

theorem hiByte_toNat (w : Word) : (hiByte w).toNat = w.toNat / 256 := by
  have h : w.toNat < 2 ^ 16 := w.isLt
  simp only [hiByte, BitVec.extractLsb'_toNat, Nat.shiftRight_eq_div_pow]
  omega

theorem loByte_toNat (w : Word) : (loByte w).toNat = w.toNat % 256 := by
  simp [loByte, BitVec.extractLsb'_toNat]

theorem joinBytes_toNat (hi lo : Byte) : (joinBytes hi lo).toNat = hi.toNat * 256 + lo.toNat := by
  have h : lo.toNat < 2 ^ 8 := lo.isLt
  simp only [joinBytes, BitVec.toNat_append]
  rw [← Nat.shiftLeft_add_eq_or_of_lt h, Nat.shiftLeft_eq]

theorem hiNib_toNat (b : Byte) : (hiNib b).toNat = b.toNat / 16 := by
  have h : b.toNat < 2 ^ 8 := b.isLt
  simp only [hiNib, BitVec.extractLsb'_toNat, Nat.shiftRight_eq_div_pow]
  omega

theorem loNib_toNat (b : Byte) : (loNib b).toNat = b.toNat % 16 := by
  simp [loNib, BitVec.extractLsb'_toNat]

theorem joinNibs_toNat (hi lo : Nib) : (joinNibs hi lo).toNat = hi.toNat * 16 + lo.toNat := by
  have h : lo.toNat < 2 ^ 4 := lo.isLt
  simp only [joinNibs, BitVec.toNat_append]
  rw [← Nat.shiftLeft_add_eq_or_of_lt h, Nat.shiftLeft_eq]

@[simp] theorem hiNib_joinNibs (a b : Nib) : hiNib (joinNibs a b) = a := by
  apply BitVec.eq_of_toNat_eq
  rw [hiNib_toNat, joinNibs_toNat]
  have h : b.toNat < 2 ^ 4 := b.isLt
  omega

@[simp] theorem loNib_joinNibs (a b : Nib) : loNib (joinNibs a b) = b := by
  apply BitVec.eq_of_toNat_eq
  rw [loNib_toNat, joinNibs_toNat]
  have h : b.toNat < 2 ^ 4 := b.isLt
  omega

/-! ## One instruction -/

theorem instructionStep_ok {op : Byte} {body : State → Except FaultInfo State} {s u : State}
    (h : body (fetched op s) = .ok u) : instructionStep op body s = .next (countCycles u) := by
  simp only [instructionStep, h]

theorem instructionStep_error {op : Byte} {body : State → Except FaultInfo State} {s : State} {f : FaultInfo}
    (h : body (fetched op s) = .error f) : instructionStep op body s = .next (enterFault f s) := by
  simp only [instructionStep, h]

/-- An instruction runs its execute part to the end, or enters a fault; it always answers a next state. -/
theorem instructionStep_cases (op : Byte) (body : State → Except FaultInfo State) (s : State) :
    (∃ u, body (fetched op s) = .ok u ∧ instructionStep op body s = .next (countCycles u)) ∨
    (∃ f, body (fetched op s) = .error f ∧ instructionStep op body s = .next (enterFault f s)) := by
  cases h : body (fetched op s) with
  | ok u => exact .inl ⟨u, rfl, instructionStep_ok h⟩
  | error f => exact .inr ⟨f, rfl, instructionStep_error h⟩

theorem handlerStep_ok {body : State → Except FaultInfo State} {s u : State}
    (h : body (fetched8 s) = .ok u) : handlerStep body s = .next u := by
  simp only [handlerStep, h]

theorem handlerStep_error {body : State → Except FaultInfo State} {s : State} {f : FaultInfo}
    (h : body (fetched8 s) = .error f) : handlerStep body s = .next (enterFault f s) := by
  simp only [handlerStep, h]

/-- A handler runs to the end, or enters a fault; it always answers a next state. -/
theorem handlerStep_cases (body : State → Except FaultInfo State) (s : State) :
    (∃ u, body (fetched8 s) = .ok u ∧ handlerStep body s = .next u) ∨
    (∃ f, body (fetched8 s) = .error f ∧ handlerStep body s = .next (enterFault f s)) := by
  cases h : body (fetched8 s) with
  | ok u => exact .inl ⟨u, rfl, handlerStep_ok h⟩
  | error f => exact .inr ⟨f, rfl, handlerStep_error h⟩

/-! ## Operands -/

theorem immediate_ok {s : State} {v b : Byte} (h : memRead s s.pc = .ok v) :
    immediate b s = .ok (b, s.setPc (s.pc + 1)) := by simp only [immediate, h]

theorem immediate_error {s : State} {f : FaultInfo} (b : Byte) (h : memRead s s.pc = .error f) :
    immediate b s = .error f := by simp only [immediate, h]

theorem withX_ok {s : State} {v : Byte} (f : Byte → State → State) (h : memRead s (s.reg s.x) = .ok v) :
    withX f s = .ok (f v s) := by simp only [withX, operandX, h]

theorem withX_error {s : State} {e : FaultInfo} (f : Byte → State → State) (h : memRead s (s.reg s.x) = .error e) :
    withX f s = .error e := by simp only [withX, operandX, h]

theorem withImmediate_ok {s : State} {v b : Byte} (f : Byte → State → State) (h : memRead s s.pc = .ok v) :
    withImmediate b f s = .ok (f b (s.setPc (s.pc + 1))) := by simp only [withImmediate, immediate_ok h]

theorem withImmediate_error {s : State} {e : FaultInfo} (b : Byte) (f : Byte → State → State)
    (h : memRead s s.pc = .error e) : withImmediate b f s = .error e := by
  simp only [withImmediate, immediate_error b h]

/-- A short branch that runs only moves `R[P]`: to the target when taken, past the operand when not; a fault needs a taken
branch on an unreadable operand (44_short_branch R145). -/
theorem shortBranch_cases (cond : Bool) (addr : Byte) (s : State) :
    (cond = true ∧ (∃ v, memRead s s.pc = .ok v) ∧
      shortBranch cond addr s = .ok (s.setPc (joinBytes (hiByte s.pc) addr))) ∨
    (cond = false ∧ shortBranch cond addr s = .ok (s.setPc (s.pc + 1))) ∨
    (∃ f, cond = true ∧ memRead s s.pc = .error f ∧ shortBranch cond addr s = .error f) := by
  cases h : memRead s s.pc with
  | ok v => cases cond <;> simp [shortBranch, h]
  | error f => cases cond <;> simp [shortBranch, h]

/-- The same of a long branch (45_long_branch_skip R165). -/
theorem longBranch_cases (cond : Bool) (addr : Word) (s : State) :
    (cond = true ∧ (∃ v w, memRead s s.pc = .ok v ∧ memRead s (s.pc + 1) = .ok w) ∧
      longBranch cond addr s = .ok (s.setPc addr)) ∨
    (cond = false ∧ longBranch cond addr s = .ok (s.setPc (s.pc + 2))) ∨
    (∃ f, cond = true ∧ (memRead s s.pc = .error f ∨
      (∃ v, memRead s s.pc = .ok v) ∧ memRead s (s.pc + 1) = .error f) ∧ longBranch cond addr s = .error f) := by
  cases h : memRead s s.pc with
  | error f => cases cond <;> simp [longBranch, h]
  | ok v =>
    cases h2 : memRead s (s.pc + 1) with
    | ok w => cases cond <;> simp only [longBranch, h, h2] <;> simp
    | error f => cases cond <;> simp only [longBranch, h, h2] <;> simp

/-! ## Loads, stores, control and ports -/

theorem loadInto_ok {read : Except FaultInfo Byte} {v : Byte} (after : State → State) (s : State)
    (h : read = .ok v) : loadInto read after s = .ok (after { s with d := v }) := by rw [h]; rfl

theorem loadInto_error {read : Except FaultInfo Byte} {f : FaultInfo} (after : State → State) (s : State)
    (h : read = .error f) : loadInto read after s = .error f := by rw [h]; rfl

theorem loadImmediate_ok {s : State} {v : Byte} (b : Byte) (h : memRead s s.pc = .ok v) :
    loadImmediate b s = .ok { s.setPc (s.pc + 1) with d := b } := by simp only [loadImmediate, immediate_ok h]

theorem loadImmediate_error {s : State} {f : FaultInfo} (b : Byte) (h : memRead s s.pc = .error f) :
    loadImmediate b s = .error f := by simp only [loadImmediate, immediate_error b h]

theorem storeAt_ok {s u : State} {a : Word} {v : Byte} (after : State → State) (h : memWrite s a v = .ok u) :
    storeAt a v after s = .ok (after u) := by simp only [storeAt, h]

theorem storeAt_error {s : State} {a : Word} {v : Byte} {f : FaultInfo} (after : State → State)
    (h : memWrite s a v = .error f) : storeAt a v after s = .error f := by simp only [storeAt, h]

theorem markStack_ok {s u : State}
    (h : memWrite { s with t := savedXP s } (s.reg 2) (savedXP s) = .ok u) :
    markStack s = .ok ({ u with x := u.p }.setReg 2 (u.reg 2 - 1)) := by simp only [markStack, h]

theorem markStack_error {s : State} {f : FaultInfo}
    (h : memWrite { s with t := savedXP s } (s.reg 2) (savedXP s) = .error f) : markStack s = .error f := by
  simp only [markStack, h]

theorem returnThroughX_ok {s : State} {v : Byte} (ie : Bool) (h : memRead s (s.reg s.x) = .ok v) :
    returnThroughX ie s =
      .ok { s.setReg s.x (s.reg s.x + 1) with x := hiNib v, p := loNib v, ie := ie } := by
  simp only [returnThroughX, h]

theorem returnThroughX_error {s : State} {f : FaultInfo} (ie : Bool) (h : memRead s (s.reg s.x) = .error f) :
    returnThroughX ie s = .error f := by simp only [returnThroughX, h]

theorem outputByte_ok {s : State} {v : Byte} (port : Port) (h : memRead s (s.reg s.x) = .ok v) :
    outputByte port s = .ok ((ioOut port v s).setReg s.x (s.reg s.x + 1)) := by
  simp only [outputByte, operandX, h]

theorem outputByte_error {s : State} {f : FaultInfo} (port : Port) (h : memRead s (s.reg s.x) = .error f) :
    outputByte port s = .error f := by simp only [outputByte, operandX, h]

theorem storeInput_ok {s u : State} {port : Port}
    (h : memWrite (ioIn port s) (s.reg s.x) (inputByte port s) = .ok u) :
    storeInput port s = .ok { u with d := inputByte port s } := by simp only [storeInput, h]

theorem storeInput_error {s : State} {port : Port} {f : FaultInfo}
    (h : memWrite (ioIn port s) (s.reg s.x) (inputByte port s) = .error f) : storeInput port s = .error f := by
  simp only [storeInput, h]

/-- An output strobe touches the display bit, the two latches and the events only, port by port (47_io R203). -/
theorem ioOut_eq (port : Port) (v : Byte) (s : State) :
    ioOut port v s =
      { s.emit (.out (s.cycles + 1) port v) with
        displayEnabled := if port = 1 then false else s.displayEnabled,
        keyLatch := if port = 2 then loNib v else s.keyLatch,
        bootLatch := if port = 4 then false else s.bootLatch } := by
  have h : port = 0 ∨ port = 1 ∨ port = 2 ∨ port = 3 ∨ port = 4 ∨ port = 5 ∨ port = 6 ∨ port = 7 := by
    revert port; decide
  rcases h with rfl | rfl | rfl | rfl | rfl | rfl | rfl | rfl <;> rfl

/-- An input strobe touches the display bit and the events, and takes one free value (47_io R204). -/
theorem ioIn_eq (port : Port) (s : State) :
    ioIn port s =
      { (s.emit (.inp (s.cycles + 1) port)).tookDraw with
        displayEnabled := if port = 1 then true else s.displayEnabled } := by
  have h : port = 0 ∨ port = 1 ∨ port = 2 ∨ port = 3 ∨ port = 4 ∨ port = 5 ∨ port = 6 ∨ port = 7 := by
    revert port; decide
  rcases h with rfl | rfl | rfl | rfl | rfl | rfl | rfl | rfl <;> rfl

/-! ## The return stack -/

/-- Everything `push` can answer (48_dispatch R222). -/
theorem push_cases (a : Addr8) (s : State) :
    (s.cfg.stackPolicy = .error ∧ 16 ≤ s.sp8 ∧ push a s = .error .stackOverflow) ∨
    (s.cfg.stackPolicy = .error ∧ s.sp8 < 16 ∧ push a s = .ok { s.setStack s.sp8 a with sp8 := s.sp8 + 1 }) ∨
    (s.cfg.stackPolicy = .cyclic ∧ push a s = .ok { s.setStack s.sp8 a with sp8 := (s.sp8 + 1) % 16 }) := by
  cases h : s.cfg.stackPolicy with
  | error =>
    by_cases h2 : 16 ≤ s.sp8
    · simp [push, h, h2, Config.stackDepth]
    · simp [push, h, h2, Config.stackDepth]; omega
  | cyclic => simp [push, h]

/-- Everything `pop` can answer (48_dispatch R223). -/
theorem pop_cases (s : State) :
    (s.cfg.stackPolicy = .error ∧ s.sp8 = 0 ∧ pop s = .error .stackUnderflow) ∨
    (s.cfg.stackPolicy = .error ∧ s.sp8 ≠ 0 ∧ pop s = .ok (s.stackAt (s.sp8 - 1), s.sp8 - 1)) ∨
    (s.cfg.stackPolicy = .cyclic ∧ pop s = .ok (s.stackAt ((s.sp8 + 15) % 16), (s.sp8 + 15) % 16)) := by
  cases h : s.cfg.stackPolicy with
  | error => by_cases h2 : s.sp8 = 0 <;> simp [pop, h, h2]
  | cyclic => simp [pop, h]

theorem callTo_ok {s u : State} (nnn : BitVec 12) (h : push s.pc8 s = .ok u) :
    callTo nnn s = .ok { u with pc8 := nnn.zeroExtend 24 } := by simp only [callTo, h]

theorem callTo_error {s : State} {f : FaultInfo} (nnn : BitVec 12) (h : push s.pc8 s = .error f) :
    callTo nnn s = .error f := by simp only [callTo, h]

theorem returnFromStack_ok {s : State} {a : Addr8} {k : Nat} (h : pop s = .ok (a, k)) :
    returnFromStack s = .ok { s with pc8 := a, sp8 := k } := by simp only [returnFromStack, h]

theorem returnFromStack_error {s : State} {f : FaultInfo} (h : pop s = .error f) :
    returnFromStack s = .error f := by simp only [returnFromStack, h]

/-! ## CHIP-8 memory -/

theorem write8_eq (s : State) (a : Nat) (b : Byte) :
    write8 s a b = { s with mem := (write8 s a b).mem, pad := (write8 s a b).pad } := rfl

theorem write8_read (s : State) (a c : Nat) (b : Byte) :
    (write8 s a b).mem.read c = if c = a % s.cfg.memSize then b else s.mem.read c := by
  simp only [write8, Memory.read_write]

/-- A list of writes touches memory and the pad only. -/
theorem writeAll8_eq (ws : List (Nat × Byte)) (s : State) :
    writeAll8 ws s = { s with mem := (writeAll8 ws s).mem, pad := (writeAll8 ws s).pad } := by
  induction ws generalizing s with
  | nil => rfl
  | cons w ws ih =>
    have h : writeAll8 (w :: ws) s = writeAll8 ws (write8 s w.1 w.2) := rfl
    rw [h, ih]
    rfl

/-- A list of writes leaves every address it does not name alone. -/
theorem writeAll8_read_ne (ws : List (Nat × Byte)) (s : State) (a : Nat)
    (h : ∀ w ∈ ws, w.1 % s.cfg.memSize ≠ a) : (writeAll8 ws s).mem.read a = s.mem.read a := by
  induction ws generalizing s with
  | nil => rfl
  | cons w ws ih =>
    have e : writeAll8 (w :: ws) s = writeAll8 ws (write8 s w.1 w.2) := rfl
    have h1 := ih (write8 s w.1 w.2) (fun w' hw => h w' (List.mem_cons_of_mem _ hw))
    rw [e, h1, write8_read, if_neg (fun e => h w (by simp) e.symm)]

/-- The stores of `Fx55` touch memory and the pad only. -/
theorem storeRegs_eq (k : Nat) (s : State) :
    storeRegs k s = { s with mem := (storeRegs k s).mem, pad := (storeRegs k s).pad } := by
  induction k with
  | zero => rfl
  | succ k ih =>
    have h : storeRegs (k + 1) s =
      write8 (storeRegs k s) (indexAt (storeRegs k s) (k + 1)) ((storeRegs k s).vreg (BitVec.ofNat 4 (k + 1))) := rfl
    rw [h, write8_eq, ih]

/-- The loads of `Fx65` touch `V` only. -/
theorem loadRegs_eq (k : Nat) (s : State) : loadRegs k s = { s with v := (loadRegs k s).v } := by
  induction k with
  | zero => rfl
  | succ k ih =>
    have h : loadRegs (k + 1) s =
      (loadRegs k s).setV (BitVec.ofNat 4 (k + 1)) ((loadRegs k s).mem.read (indexAt (loadRegs k s) (k + 1))) := rfl
    rw [h]
    simp only [State.setV]
    rw [ih]

/-- Moving `I8` touches `I8` only. -/
theorem moveI_eq (x : Nib) (s : State) : moveI x s = { s with i8 := (moveI x s).i8 } := by
  cases h : s.cfg.loadStoreI <;> simp only [moveI, h]

/-! ## Every instruction answers a next state -/

theorem instructionStep_next (op : Byte) (body : State → Except FaultInfo State) (s : State) :
    ∃ t, instructionStep op body s = .next t := by
  rcases instructionStep_cases op body s with ⟨u, -, h⟩ | ⟨f, -, h⟩ <;> exact ⟨_, h⟩

theorem handlerStep_next (body : State → Except FaultInfo State) (s : State) : ∃ t, handlerStep body s = .next t := by
  rcases handlerStep_cases body s with ⟨u, -, h⟩ | ⟨f, -, h⟩ <;> exact ⟨_, h⟩

/-- A CDP1802 instruction is an instruction step of its first opcode byte. -/
theorem exec_hardware (i : Instr) (h : i.engine = .hardware) :
    ∃ body, ∀ s, exec i s = instructionStep ((encode i).headD 0) body s := by
  cases i <;> first
    | (cases h; done)
    | (simp only [exec,
    execInc, execDec, execIrx, execGlo, execGhi, execPlo, execPhi, execLdn, execLda, execLdx, execLdxa, execLdi,
    execStr, execStxd, execOr, execOri, execXor, execXri, execAnd, execAni, execShr, execShrc, execShl, execShlc,
    execAdd, execAdi, execAdc, execAdci, execSd, execSdi, execSdb, execSdbi, execSm, execSmi, execSmb, execSmbi,
    execBr, execBq, execBz, execBdf, execB1, execB2, execB3, execB4, execNbr, execBnq, execBnz, execBnf, execBn1,
    execBn2, execBn3, execBn4, execLbr, execLbq, execLbz, execLbdf, execLbnq, execLbnz, execLbnf, execLskp,
    execLsnq, execLsnz, execLsnf, execLsie, execLsq, execLsz, execLsdf, execNop, execIdl, execSep, execSex,
    execSeq, execReq, execSav, execMark, execRet, execDis, execOut, execInp, execReserved]
       exact ⟨_, fun _ => rfl⟩)

/-- A CHIP-8 instruction other than the draw is a handler step. -/
theorem exec_fastPath (i : Instr) (h : i.engine = .fastPath) :
    (∃ x y n, i = .c8Draw x y n) ∨ ∃ body, ∀ s, exec i s = handlerStep body s := by
  cases i
  case c8Draw x y n => exact .inl ⟨x, y, n, rfl⟩
  all_goals first
    | (cases h; done)
    | (simp only [exec,
    execC8Or, execC8And, execC8Xor, execC8ShiftRight, execC8ShiftLeft, execC8KeyWait, execC8Store,
    execC8Load, execC8Call, execC8Return, execC8Unmapped]
       exact .inr ⟨_, fun _ => rfl⟩)

/-- Every instruction answers a next state. -/
theorem exec_next (i : Instr) (s : State) : ∃ t, exec i s = .next t := by
  cases h : i.engine with
  | hardware =>
    obtain ⟨body, hb⟩ := exec_hardware i h
    rw [hb]; exact instructionStep_next _ _ _
  | fastPath =>
    rcases exec_fastPath i h with ⟨x, y, n, rfl⟩ | ⟨body, hb⟩
    · exact ⟨_, rfl⟩
    · rw [hb]; exact handlerStep_next _ _

/-- `setQ` writes `Q` and the events only. -/
theorem setQ_eq (b : Bool) (s : State) : ∃ ev, setQ b s = { s with q := b, events := ev } := ⟨_, rfl⟩

@[simp] theorem setQ_q (b : Bool) (s : State) : (setQ b s).q = b := rfl

@[simp] theorem setQ_events (b : Bool) (s : State) :
    (setQ b s).events = if s.q = b then s.events else .qOutput (s.cycles + 1) b :: s.events := rfl

@[simp] theorem setQ_r (b : Bool) (s : State) : (setQ b s).r = s.r := rfl

@[simp] theorem setQ_mem (b : Bool) (s : State) : (setQ b s).mem = s.mem := rfl

end Sys2Proof.Machine
end

