-- ==== Sys2Proof/Laws/Decode.lean ====
section
/-! SUPPORT. What the decoder reads: each entry of the opcode map with the encoding it comes from, and the lengths. -/

namespace Sys2Proof

open Sys2Proof.Machine

/-- The instruction of an opcode's entry and the two bytes after it. -/
def Form.fill (f : Form) (b1 b2 : Byte) : Instr :=
  match f with
  | .alone i => i
  | .withByte mk => mk b1
  | .withWord mk => mk (joinBytes b1 b2)

/-- The number of bytes an entry takes. -/
def Form.size (f : Form) : Nat :=
  match f with
  | .alone _ => 1
  | .withByte _ => 2
  | .withWord _ => 3

theorem instrOf_eq (op b1 b2 : Byte) : instrOf op b1 b2 = (formOf op).fill b1 b2 := by
  unfold instrOf
  cases formOf op <;> rfl

theorem opcodeLength_eq (op : Byte) : opcodeLength op = (formOf op).size := by
  unfold opcodeLength
  cases formOf op <;> rfl

/-- The decoder takes the instruction of the opcode's entry and leaves the bytes after it. -/
theorem decode1802_three (op b1 b2 : Byte) (rest : List Byte) :
    decode1802 (op :: b1 :: b2 :: rest) =
      .ok (instrOf op b1 b2, (b1 :: b2 :: rest).drop (opcodeLength op - 1)) := by
  rw [instrOf_eq, opcodeLength_eq]
  cases h : formOf op <;> simp [decode1802, h, Form.fill, Form.size]

theorem byte_eq_joinNibs (op : Byte) : op = joinNibs (hiNib op) (loNib op) := by
  apply BitVec.eq_of_toNat_eq
  rw [joinNibs_toNat, hiNib_toNat, loNib_toNat]
  omega

theorem joinBytes_hi_lo (a : Word) : joinBytes (hiByte a) (loByte a) = a := by
  apply BitVec.eq_of_toNat_eq
  rw [joinBytes_toNat, hiByte_toNat, loByte_toNat]
  omega

theorem hiByte_joinBytes (h l : Byte) : hiByte (joinBytes h l) = h := by
  apply BitVec.eq_of_toNat_eq
  have : l.toNat < 2 ^ 8 := l.isLt
  rw [hiByte_toNat, joinBytes_toNat]
  omega

theorem loByte_joinBytes (h l : Byte) : loByte (joinBytes h l) = l := by
  apply BitVec.eq_of_toNat_eq
  have : l.toNat < 2 ^ 8 := l.isLt
  rw [loByte_toNat, joinBytes_toNat]
  omega

/-- The sixteen values of a nibble. -/
theorem nib_cases (n : Nib) :
    n = 0 ∨ n = 1 ∨ n = 2 ∨ n = 3 ∨ n = 4 ∨ n = 5 ∨ n = 6 ∨ n = 7 ∨ n = 8 ∨ n = 9 ∨ n = 10 ∨ n = 11 ∨ n = 12 ∨
      n = 13 ∨ n = 14 ∨ n = 15 := by revert n; decide

/-- What an entry of the map must be at the opcode `op`: a CDP1802 instruction whose encoding begins with `op`. -/
def Form.GoodAt (op : Byte) : Form → Prop
  | .alone i => i.engine = .hardware ∧ i.wf = true ∧ encode i = [op]
  | .withByte mk => ∀ b, (mk b).engine = .hardware ∧ (mk b).wf = true ∧ encode (mk b) = [op, b]
  | .withWord mk => ∀ a, (mk a).engine = .hardware ∧ (mk a).wf = true ∧ encode (mk a) = [op, hiByte a, loByte a]

theorem shortBranchForm_good (n : Nib) : (shortBranchForm n).GoodAt (joinNibs 0x3#4 n) := by
  rcases nib_cases n with
    rfl | rfl | rfl | rfl | rfl | rfl | rfl | rfl | rfl | rfl | rfl | rfl | rfl | rfl | rfl | rfl <;>
    exact fun _ => ⟨rfl, rfl, rfl⟩

theorem inOutForm_good (n : Nib) : (inOutForm n).GoodAt (joinNibs 0x6#4 n) := by
  rcases nib_cases n with
    rfl | rfl | rfl | rfl | rfl | rfl | rfl | rfl | rfl | rfl | rfl | rfl | rfl | rfl | rfl | rfl <;>
    exact ⟨rfl, rfl, rfl⟩

theorem row7Form_good (n : Nib) : (row7Form n).GoodAt (joinNibs 0x7#4 n) := by
  rcases nib_cases n with
    rfl | rfl | rfl | rfl | rfl | rfl | rfl | rfl | rfl | rfl | rfl | rfl | rfl | rfl | rfl | rfl <;>
    first
    | exact ⟨rfl, rfl, rfl⟩
    | exact fun _ => ⟨rfl, rfl, rfl⟩

theorem rowCForm_good (n : Nib) : (rowCForm n).GoodAt (joinNibs 0xC#4 n) := by
  rcases nib_cases n with
    rfl | rfl | rfl | rfl | rfl | rfl | rfl | rfl | rfl | rfl | rfl | rfl | rfl | rfl | rfl | rfl <;>
    first
    | exact ⟨rfl, rfl, rfl⟩
    | exact fun _ => ⟨rfl, rfl, rfl⟩

theorem rowFForm_good (n : Nib) : (rowFForm n).GoodAt (joinNibs 0xF#4 n) := by
  rcases nib_cases n with
    rfl | rfl | rfl | rfl | rfl | rfl | rfl | rfl | rfl | rfl | rfl | rfl | rfl | rfl | rfl | rfl <;>
    first
    | exact ⟨rfl, rfl, rfl⟩
    | exact fun _ => ⟨rfl, rfl, rfl⟩

/-- Every entry of the map stands for a CDP1802 instruction whose encoding begins with that opcode (30_encoding R74). -/
theorem formOf_good (op : Byte) : (formOf op).GoodAt op := by
  rw [byte_eq_joinNibs op]
  generalize hiNib op = h
  generalize loNib op = n
  simp only [formOf, hiNib_joinNibs, loNib_joinNibs]
  rcases nib_cases h with
    rfl | rfl | rfl | rfl | rfl | rfl | rfl | rfl | rfl | rfl | rfl | rfl | rfl | rfl | rfl | rfl
  · by_cases hn : n = 0
    · subst hn; exact ⟨rfl, rfl, rfl⟩
    · show (if n = 0 then Form.alone .idl else .alone (.ldn n)).GoodAt _
      rw [if_neg hn]
      exact ⟨rfl, by simp only [Instr.wf, bne_iff_ne]; exact hn, rfl⟩
  · exact ⟨rfl, rfl, rfl⟩
  · exact ⟨rfl, rfl, rfl⟩
  · exact shortBranchForm_good n
  · exact ⟨rfl, rfl, rfl⟩
  · exact ⟨rfl, rfl, rfl⟩
  · exact inOutForm_good n
  · exact row7Form_good n
  · exact ⟨rfl, rfl, rfl⟩
  · exact ⟨rfl, rfl, rfl⟩
  · exact ⟨rfl, rfl, rfl⟩
  · exact ⟨rfl, rfl, rfl⟩
  · exact rowCForm_good n
  · exact ⟨rfl, rfl, rfl⟩
  · exact ⟨rfl, rfl, rfl⟩
  · exact rowFForm_good n

/-- What the CDP1802 decoder reads is a CDP1802 instruction, and its first byte is the opcode. -/
theorem instrOf_engine (op b1 b2 : Byte) :
    (instrOf op b1 b2).engine = .hardware ∧ (encode (instrOf op b1 b2)).headD 0 = op := by
  rw [instrOf_eq]
  have h := formOf_good op
  cases hf : formOf op with
  | alone i => rw [hf] at h; exact ⟨h.1, by simp [Form.fill, h.2.2]⟩
  | withByte mk => rw [hf] at h; exact ⟨(h b1).1, by simp [Form.fill, (h b1).2.2]⟩
  | withWord mk => rw [hf] at h; exact ⟨(h _).1, by simp [Form.fill, (h (joinBytes b1 b2)).2.2]⟩

/-- A handler's instruction is a CHIP-8 instruction. -/
theorem Handler.instr_engine (h : Handler) (op : Word) : (h.instr op).engine = .fastPath := by
  cases h <;> rfl

end Sys2Proof
end

