-- ==== Sys2Proof/Laws/Frames.lean ====
section
/-! SUPPORT. What no CDP1802 instruction writes and what no CHIP-8 handler writes: one frame for each engine, with what
every write to memory keeps. -/

namespace Sys2Proof.Machine

/-- Memory is as before, or one byte of the RAM window was written. -/
def RamStep (m m' : Memory) : Prop := m' = m ∨ ∃ a v, a < 0x1000 ∧ m' = m.write a v

/-- A state with everything a CDP1802 instruction may write masked out. -/
def hwRest (s : State) : State :=
  { s with
    r := Vector.replicate 16 0, d := 0, df := false, p := 0, x := 0, t := 0, ie := false, q := false, idle := false,
    displayEnabled := false, bootLatch := false, keyLatch := 0, mem := [], events := [], draws := 0 }

/-- What the execute part of a CDP1802 instruction leaves alone: the rest of the state, and all of memory but one byte of
the RAM window. -/
structure HwFrame (s u : State) : Prop where
  rest : hwRest u = hwRest s
  mem : RamStep s.mem u.mem

theorem HwFrame.refl (s : State) : HwFrame s s := ⟨rfl, .inl rfl⟩

theorem HwFrame.of_rest {s u : State} (h : hwRest u = hwRest s) (m : u.mem = s.mem) : HwFrame s u := ⟨h, .inl m⟩

theorem HwFrame.trans_rest {s u w : State} (h : HwFrame s u) (e : hwRest w = hwRest u) (m : w.mem = u.mem) :
    HwFrame s w := ⟨e.trans h.rest, m ▸ h.mem⟩

theorem HwFrame.i {s u : State} (h : HwFrame s u) : u.i = s.i :=
  (congrArg State.i h.rest :)
theorem HwFrame.n {s u : State} (h : HwFrame s u) : u.n = s.n :=
  (congrArg State.n h.rest :)
theorem HwFrame.fault {s u : State} (h : HwFrame s u) : u.fault = s.fault :=
  (congrArg State.fault h.rest :)
theorem HwFrame.cycles {s u : State} (h : HwFrame s u) : u.cycles = s.cycles :=
  (congrArg State.cycles h.rest :)
theorem HwFrame.pad {s u : State} (h : HwFrame s u) : u.pad = s.pad :=
  (congrArg State.pad h.rest :)
theorem HwFrame.v {s u : State} (h : HwFrame s u) : u.v = s.v :=
  (congrArg State.v h.rest :)
theorem HwFrame.i8 {s u : State} (h : HwFrame s u) : u.i8 = s.i8 :=
  (congrArg State.i8 h.rest :)
theorem HwFrame.pc8 {s u : State} (h : HwFrame s u) : u.pc8 = s.pc8 :=
  (congrArg State.pc8 h.rest :)
theorem HwFrame.stack {s u : State} (h : HwFrame s u) : u.stack = s.stack :=
  (congrArg State.stack h.rest :)
theorem HwFrame.sp8 {s u : State} (h : HwFrame s u) : u.sp8 = s.sp8 :=
  (congrArg State.sp8 h.rest :)
theorem HwFrame.dt {s u : State} (h : HwFrame s u) : u.dt = s.dt :=
  (congrArg State.dt h.rest :)
theorem HwFrame.st {s u : State} (h : HwFrame s u) : u.st = s.st :=
  (congrArg State.st h.rest :)
theorem HwFrame.cycles8 {s u : State} (h : HwFrame s u) : u.cycles8 = s.cycles8 :=
  (congrArg State.cycles8 h.rest :)
theorem HwFrame.frames8 {s u : State} (h : HwFrame s u) : u.frames8 = s.frames8 :=
  (congrArg State.frames8 h.rest :)
theorem HwFrame.clears8 {s u : State} (h : HwFrame s u) : u.clears8 = s.clears8 :=
  (congrArg State.clears8 h.rest :)
theorem HwFrame.execMode {s u : State} (h : HwFrame s u) : u.execMode = s.execMode :=
  (congrArg State.execMode h.rest :)
theorem HwFrame.stepOverDepth {s u : State} (h : HwFrame s u) : u.stepOverDepth = s.stepOverDepth :=
  (congrArg State.stepOverDepth h.rest :)
theorem HwFrame.cpuState {s u : State} (h : HwFrame s u) : u.cpuState = s.cpuState :=
  (congrArg State.cpuState h.rest :)
theorem HwFrame.breakpoints {s u : State} (h : HwFrame s u) : u.breakpoints = s.breakpoints :=
  (congrArg State.breakpoints h.rest :)
theorem HwFrame.cfg {s u : State} (h : HwFrame s u) : u.cfg = s.cfg :=
  (congrArg State.cfg h.rest :)
theorem HwFrame.program {s u : State} (h : HwFrame s u) : u.program = s.program :=
  (congrArg State.program h.rest :)
theorem HwFrame.phase {s u : State} (h : HwFrame s u) : u.phase = s.phase :=
  (congrArg State.phase h.rest :)
theorem HwFrame.inTick {s u : State} (h : HwFrame s u) : u.inTick = s.inTick :=
  (congrArg State.inTick h.rest :)
theorem HwFrame.frameLeft {s u : State} (h : HwFrame s u) : u.frameLeft = s.frameLeft :=
  (congrArg State.frameLeft h.rest :)
theorem HwFrame.inbox {s u : State} (h : HwFrame s u) : u.inbox = s.inbox :=
  (congrArg State.inbox h.rest :)

theorem HwFrame.loadInto {read : Except FaultInfo Byte} {after : State → State} {s u : State}
    (ha : ∀ s, hwRest (after s) = hwRest s ∧ (after s).mem = s.mem) (h : loadInto read after s = .ok u) : HwFrame s u := by
  cases hr : read with
  | error f => rw [loadInto_error after s hr] at h; cases h
  | ok v =>
    rw [loadInto_ok after s hr] at h
    cases h
    have h1 := ha { s with d := v }
    exact HwFrame.of_rest h1.1 h1.2

theorem HwFrame.withX {f : Byte → State → State} {s u : State} (hf : ∀ m s, HwFrame s (f m s))
    (h : withX f s = .ok u) : HwFrame s u := by
  cases hr : memRead s (s.reg s.x) with
  | error e => rw [withX_error f hr] at h; cases h
  | ok v => rw [withX_ok f hr] at h; cases h; exact hf v s

theorem HwFrame.withImmediate {b : Byte} {f : Byte → State → State} {s u : State}
    (hf : ∀ m s, HwFrame s (f m s)) (h : withImmediate b f s = .ok u) : HwFrame s u := by
  cases hr : memRead s s.pc with
  | error e => rw [withImmediate_error b f hr] at h; cases h
  | ok v =>
    rw [withImmediate_ok f hr] at h; cases h
    have h1 := hf b (s.setPc (s.pc + 1))
    exact ⟨h1.rest, h1.mem⟩

theorem HwFrame.loadImmediate {b : Byte} {s u : State} (h : loadImmediate b s = .ok u) : HwFrame s u := by
  cases hr : memRead s s.pc with
  | error e => rw [loadImmediate_error b hr] at h; cases h
  | ok v => rw [loadImmediate_ok b hr] at h; cases h; exact ⟨rfl, .inl rfl⟩

theorem HwFrame.memWrite {s u : State} {a : Word} {v : Byte} (h : memWrite s a v = .ok u) : HwFrame s u := by
  rcases memWrite_cases s a v with ⟨hr, e⟩ | ⟨-, -, e⟩ | ⟨-, -, e⟩
  · rw [e] at h; cases h
    exact ⟨rfl, .inr ⟨_, v, (inRam_iff _).1 hr, rfl⟩⟩
  · rw [e] at h; cases h; exact ⟨rfl, .inl rfl⟩
  · rw [e] at h; cases h

theorem HwFrame.storeAt {a : Word} {v : Byte} {after : State → State} {s u : State}
    (ha : ∀ s, hwRest (after s) = hwRest s ∧ (after s).mem = s.mem) (h : storeAt a v after s = .ok u) : HwFrame s u := by
  cases hr : Machine.memWrite s a v with
  | error e => rw [storeAt_error after hr] at h; cases h
  | ok w =>
    rw [storeAt_ok after hr] at h; cases h
    exact HwFrame.trans_rest (HwFrame.memWrite hr) (ha w).1 (ha w).2

theorem HwFrame.shortBranch {c : Bool} {a : Byte} {s u : State} (h : shortBranch c a s = .ok u) : HwFrame s u := by
  rcases shortBranch_cases c a s with ⟨-, -, e⟩ | ⟨-, e⟩ | ⟨f, -, -, e⟩ <;> rw [e] at h <;> cases h <;>
    exact ⟨rfl, .inl rfl⟩

theorem HwFrame.longBranch {c : Bool} {a : Word} {s u : State} (h : longBranch c a s = .ok u) : HwFrame s u := by
  rcases longBranch_cases c a s with ⟨-, -, e⟩ | ⟨-, e⟩ | ⟨f, -, -, e⟩ <;> rw [e] at h <;> cases h <;>
    exact ⟨rfl, .inl rfl⟩

theorem HwFrame.longSkip {c : Bool} {s u : State} (h : longSkip c s = .ok u) : HwFrame s u := by
  cases c <;> cases h <;> exact ⟨rfl, .inl rfl⟩

theorem HwFrame.markStack {s u : State} (h : markStack s = .ok u) : HwFrame s u := by
  cases hr : Machine.memWrite { s with t := savedXP s } (s.reg 2) (savedXP s) with
  | error e => rw [markStack_error hr] at h; cases h
  | ok w =>
    rw [markStack_ok hr] at h; cases h
    have hw := HwFrame.memWrite hr
    exact ⟨hw.rest, hw.mem⟩

theorem HwFrame.returnThroughX {b : Bool} {s u : State} (h : returnThroughX b s = .ok u) : HwFrame s u := by
  cases hr : memRead s (s.reg s.x) with
  | error e => rw [returnThroughX_error b hr] at h; cases h
  | ok v => rw [returnThroughX_ok b hr] at h; cases h; exact ⟨rfl, .inl rfl⟩

theorem HwFrame.outputByte {p : Port} {s u : State} (h : outputByte p s = .ok u) : HwFrame s u := by
  cases hr : memRead s (s.reg s.x) with
  | error e => rw [outputByte_error p hr] at h; cases h
  | ok v => rw [outputByte_ok p hr, ioOut_eq] at h; cases h; exact ⟨rfl, .inl rfl⟩

theorem HwFrame.storeInput {p : Port} {s u : State} (h : storeInput p s = .ok u) : HwFrame s u := by
  cases hr : Machine.memWrite (ioIn p s) (s.reg s.x) (inputByte p s) with
  | error e => rw [storeInput_error hr] at h; cases h
  | ok w =>
    rw [storeInput_ok hr] at h; cases h
    have h1 : HwFrame (ioIn p s) w := HwFrame.memWrite hr
    rw [ioIn_eq] at h1
    exact ⟨h1.rest, h1.mem⟩

/-- Every CDP1802 instruction is an instruction step of its first opcode byte, whose execute part keeps the frame. -/
theorem exec_hwFrame (i : Instr) (h : i.engine = .hardware) :
    ∃ body, (∀ s, exec i s = instructionStep ((encode i).headD 0) body s) ∧
      ∀ s u, body s = .ok u → HwFrame s u := by
  cases i
  case ldn | lda | ldx | ldxa =>
    simp only [exec, execLdn, execLda, execLdx, execLdxa]
    refine ⟨_, fun _ => rfl, fun s u h => ?_⟩
    exact HwFrame.loadInto (by intro s; exact ⟨rfl, rfl⟩) h
  case ldi =>
    simp only [exec, execLdi]
    refine ⟨_, fun _ => rfl, fun s u h => ?_⟩
    exact HwFrame.loadImmediate h
  case str | stxd =>
    simp only [exec, execStr, execStxd]
    refine ⟨_, fun _ => rfl, fun s u h => ?_⟩
    exact HwFrame.storeAt (by intro s; exact ⟨rfl, rfl⟩) h
  case or | xor | and | add | adc | sd | sdb | sm | smb =>
    simp only [exec, execOr, execXor, execAnd, execAdd, execAdc, execSd, execSdb, execSm, execSmb]
    refine ⟨_, fun _ => rfl, fun s u h => ?_⟩
    exact HwFrame.withX (by intro m s; exact ⟨rfl, .inl rfl⟩) h
  case ori | xri | ani | adi | adci | sdi | sdbi | smi | smbi =>
    simp only [exec, execOri, execXri, execAni, execAdi, execAdci, execSdi, execSdbi, execSmi, execSmbi]
    refine ⟨_, fun _ => rfl, fun s u h => ?_⟩
    exact HwFrame.withImmediate (by intro m s; exact ⟨rfl, .inl rfl⟩) h
  case br | bq | bz | bdf | b1 | b2 | b4 | nbr | bnq | bnz | bnf | bn1 | bn2 | bn4 =>
    simp only [exec, execBr, execBq, execBz, execBdf, execB1, execB2,
      execB4, execNbr, execBnq, execBnz, execBnf, execBn1, execBn2, execBn4]
    refine ⟨_, fun _ => rfl, fun s u h => ?_⟩
    exact HwFrame.shortBranch h
  case b3 | bn3 =>
    simp only [exec, execB3, execBn3]
    refine ⟨_, fun _ => rfl, fun s u h => ?_⟩
    have h1 := HwFrame.shortBranch h
    exact ⟨h1.rest, h1.mem⟩
  case lbr | lbq | lbz | lbdf | lbnq | lbnz | lbnf =>
    simp only [exec, execLbr, execLbq, execLbz, execLbdf, execLbnq, execLbnz, execLbnf]
    refine ⟨_, fun _ => rfl, fun s u h => ?_⟩
    exact HwFrame.longBranch h
  case lskp | lsnq | lsnz | lsnf | lsie | lsq | lsz | lsdf =>
    simp only [exec, execLskp, execLsnq, execLsnz, execLsnf, execLsie, execLsq, execLsz, execLsdf]
    refine ⟨_, fun _ => rfl, fun s u h => ?_⟩
    exact HwFrame.longSkip h
  case sav =>
    simp only [exec, execSav]
    refine ⟨_, fun _ => rfl, fun s u h => ?_⟩
    exact HwFrame.memWrite h
  case mark =>
    simp only [exec, execMark]
    refine ⟨_, fun _ => rfl, fun s u h => ?_⟩
    exact HwFrame.markStack h
  case ret | dis =>
    simp only [exec, execRet, execDis]
    refine ⟨_, fun _ => rfl, fun s u h => ?_⟩
    exact HwFrame.returnThroughX h
  case out =>
    simp only [exec, execOut]
    refine ⟨_, fun _ => rfl, fun s u h => ?_⟩
    exact HwFrame.outputByte h
  case inp =>
    simp only [exec, execInp]
    refine ⟨_, fun _ => rfl, fun s u h => ?_⟩
    exact HwFrame.storeInput h
  case reserved =>
    simp only [exec, execReserved]
    refine ⟨_, fun _ => rfl, fun s u h => ?_⟩
    cases h
  all_goals first
    | (cases h; done)
    | (simp only [exec, execInc, execDec, execIrx, execGlo, execGhi, execPlo, execPhi, execShr, execShrc, execShl,
         execShlc, execNop, execIdl, execSep, execSex, execSeq, execReq]
       refine ⟨_, fun _ => rfl, fun s u h => ?_⟩
       cases h
       exact ⟨rfl, .inl rfl⟩)

end Sys2Proof.Machine
end

