-- ==== Sys2Proof/Laws/HandlerFrames.lean ====
section
/-! SUPPORT. What no CHIP-8 handler writes, and what every handler keeps: the widths, the depth's range, the memory. -/

namespace Sys2Proof.Machine

/-- A state with everything a CHIP-8 handler may write masked out. -/
def c8Rest (s : State) : State :=
  { s with
    v := Vector.replicate 16 0, i8 := 0, pc8 := 0, stack := Vector.replicate 16 0, sp8 := 0, cpuState := .normal,
    mem := [], pad := 0, draws := 0 }

/-- What the execute part of a handler leaves alone, and what it keeps. -/
structure C8Frame (s u : State) : Prop where
  rest : c8Rest u = c8Rest s
  mem : ∃ ws, u.mem = (writeAll8 ws s).mem ∧ u.pad = (writeAll8 ws s).pad
  widths : s.WidthsGood → u.WidthsGood
  depth : s.DepthGood → u.DepthGood
  cpu : s.cpuState ≠ .error → u.cpuState ≠ .error

theorem C8Frame.fault {s u : State} (h : C8Frame s u) : u.fault = s.fault :=
  (congrArg State.fault h.rest :)
theorem C8Frame.cfg {s u : State} (h : C8Frame s u) : u.cfg = s.cfg :=
  (congrArg State.cfg h.rest :)
theorem C8Frame.execMode {s u : State} (h : C8Frame s u) : u.execMode = s.execMode :=
  (congrArg State.execMode h.rest :)
theorem C8Frame.cycles {s u : State} (h : C8Frame s u) : u.cycles = s.cycles :=
  (congrArg State.cycles h.rest :)

theorem trim_fits (w : AddrWidth) (a : Addr8) : Fits w (trim w a) := trim_lt w a

/-- Writing `V` keeps everything a handler must keep. -/
theorem C8Frame.setV (s : State) (k : Nib) (b : Byte) : C8Frame s (s.setV k b) := ⟨rfl, ⟨[], rfl, rfl⟩, id, id, id⟩

theorem C8Frame.trans {s u w : State} (h : C8Frame s u) (e : C8Frame u w) (hm : w.mem = u.mem ∧ w.pad = u.pad) :
    C8Frame s w :=
  ⟨e.rest.trans h.rest, hm.1 ▸ hm.2 ▸ h.mem, e.widths ∘ h.widths, e.depth ∘ h.depth, e.cpu ∘ h.cpu⟩

theorem C8Frame.logicResult (x : Nib) (b : Byte) (s : State) : C8Frame s (logicResult x b s) := by
  simp only [Machine.logicResult]
  split_ifs <;> exact ⟨rfl, ⟨[], rfl, rfl⟩, id, id, id⟩

theorem C8Frame.resultThenFlag (x : Nib) (b : Byte) (f : Bool) (s : State) : C8Frame s (resultThenFlag x b f s) :=
  ⟨rfl, ⟨[], rfl, rfl⟩, id, id, id⟩

theorem C8Frame.keyWait (x : Nib) (k : Option Nib) (s : State) : C8Frame s (keyWait x k s) := by
  cases k with
  | none =>
    refine ⟨rfl, ⟨[], rfl, rfl⟩, fun h => ⟨h.1, h.2.1, trim_fits _ _, h.2.2.2⟩, id, fun _ => ?_⟩
    intro e; cases e
  | some k =>
    refine ⟨rfl, ⟨[], rfl, rfl⟩, id, id, fun _ => ?_⟩
    intro e; cases e

/-- The stores of `Fx55` are a list of writes. -/
theorem storeRegs_writes (k : Nat) (s : State) : ∃ ws, storeRegs k s = writeAll8 ws s := by
  induction k with
  | zero => exact ⟨[(indexAt s 0, s.vreg 0)], rfl⟩
  | succ k ih =>
    obtain ⟨ws, h⟩ := ih
    refine ⟨ws ++ [(indexAt (storeRegs k s) (k + 1), (storeRegs k s).vreg (BitVec.ofNat 4 (k + 1)))], ?_⟩
    rw [writeAll8, List.foldl_append]
    change _ = write8 (writeAll8 ws s) _ _
    rw [← h]
    rfl

theorem moveI_widths (x : Nib) (s : State) (h : s.WidthsGood) : (moveI x s).WidthsGood := by
  cases hq : s.cfg.loadStoreI <;> simp only [moveI, hq]
  · exact h
  · exact ⟨h.1, trim_fits _ _, h.2.2⟩
  · exact ⟨h.1, trim_fits _ _, h.2.2⟩

theorem C8Frame.storeRegs (x : Nib) (k : Nat) (s : State) : C8Frame s (moveI x (storeRegs k s)) := by
  obtain ⟨ws, h⟩ := storeRegs_writes k s
  refine ⟨?_, ⟨ws, ?_⟩, fun w => moveI_widths x _ ?_, ?_, ?_⟩
  · rw [moveI_eq, storeRegs_eq]; rfl
  · rw [moveI_eq, h]; exact ⟨rfl, rfl⟩
  · rw [storeRegs_eq]; exact w
  · rw [moveI_eq, storeRegs_eq]; exact id
  · rw [moveI_eq, storeRegs_eq]; exact id

theorem C8Frame.loadRegs (x : Nib) (k : Nat) (s : State) : C8Frame s (moveI x (loadRegs k s)) := by
  refine ⟨?_, ⟨[], ?_⟩, fun w => moveI_widths x _ ?_, ?_, ?_⟩
  · rw [moveI_eq, loadRegs_eq]; rfl
  · rw [moveI_eq, loadRegs_eq]; exact ⟨rfl, rfl⟩
  · rw [loadRegs_eq]; exact w
  · rw [moveI_eq, loadRegs_eq]; exact id
  · rw [moveI_eq, loadRegs_eq]; exact id

theorem setStack_fits {w : AddrWidth} {s : State} {j : Nat} {a : Addr8} (ha : Fits w a)
    (h : ∀ k, k < 16 → Fits w (s.stackAt k)) (k : Nat) (hk : k < 16) : Fits w ((s.setStack j a).stackAt k) := by
  rw [stackAt_setStack]
  split_ifs
  · exact ha
  · exact h k hk

theorem C8Frame.callTo {nnn : BitVec 12} {s u : State} (h : callTo nnn s = .ok u) : C8Frame s u := by
  have hn : ∀ w : AddrWidth, Fits w (nnn.zeroExtend 24) := by
    intro w
    have h12 : nnn.toNat < 2 ^ 12 := nnn.isLt
    have e : (nnn.zeroExtend 24 : Addr8).toNat = nnn.toNat := by simp; omega
    have h2 : (2 : Nat) ^ 12 ≤ 2 ^ w.bits := Nat.pow_le_pow_right (by decide) (by cases w <;> decide)
    simp only [Fits, e]; omega
  rcases push_cases s.pc8 s with ⟨-, -, e⟩ | ⟨hp, hlt, e⟩ | ⟨hp, e⟩
  · rw [callTo_error nnn e] at h; cases h
  · rw [callTo_ok nnn e] at h; cases h
    refine ⟨rfl, ⟨[], rfl, rfl⟩, fun w => ⟨w.1, w.2.1, hn _, setStack_fits w.2.2.1 w.2.2.2⟩, fun _ _ => ?_, id⟩
    show match s.cfg.stackPolicy with | .error => s.sp8 + 1 ≤ 16 | .cyclic => s.sp8 + 1 < 16
    rw [hp]; exact hlt
  · rw [callTo_ok nnn e] at h; cases h
    refine ⟨rfl, ⟨[], rfl, rfl⟩, fun w => ⟨w.1, w.2.1, hn _, setStack_fits w.2.2.1 w.2.2.2⟩, fun _ _ => ?_, id⟩
    show match s.cfg.stackPolicy with | .error => (s.sp8 + 1) % 16 ≤ 16 | .cyclic => (s.sp8 + 1) % 16 < 16
    rw [hp]; exact Nat.mod_lt _ (by decide)

theorem stackAt_fits {w : AddrWidth} {s : State} (h : ∀ k, k < 16 → Fits w (s.stackAt k)) (k : Nat) :
    Fits w (s.stackAt k) := by
  have e : s.stackAt k = s.stackAt (k % 16) := by simp [State.stackAt]
  rw [e]; exact h _ (Nat.mod_lt _ (by decide))

theorem C8Frame.returnFromStack {s u : State} (h : returnFromStack s = .ok u) : C8Frame s u := by
  rcases pop_cases s with ⟨-, -, e⟩ | ⟨hp, hne, e⟩ | ⟨hp, e⟩
  · rw [returnFromStack_error e] at h; cases h
  · rw [returnFromStack_ok e] at h; cases h
    refine ⟨rfl, ⟨[], rfl, rfl⟩, fun w => ⟨w.1, w.2.1, stackAt_fits w.2.2.2 _, w.2.2.2⟩, fun d he => ?_, id⟩
    have d1 := d he
    simp only [hp] at d1 ⊢
    show s.sp8 - 1 ≤ 16
    omega
  · rw [returnFromStack_ok e] at h; cases h
    refine ⟨rfl, ⟨[], rfl, rfl⟩, fun w => ⟨w.1, w.2.1, stackAt_fits w.2.2.2 _, w.2.2.2⟩, fun _ _ => ?_, id⟩
    simp only [hp]
    exact Nat.mod_lt _ (by decide)

/-- Every CHIP-8 instruction but the draw is a handler step whose execute part keeps the frame. -/
theorem exec_c8Frame (i : Instr) (h : i.engine = .fastPath) :
    (∃ x y n, i = .c8Draw x y n) ∨
      ∃ body, (∀ s, exec i s = handlerStep body s) ∧ ∀ s u, body s = .ok u → C8Frame s u := by
  cases i
  case c8Draw x y n => exact .inl ⟨x, y, n, rfl⟩
  case c8Or | c8And | c8Xor =>
    simp only [exec, execC8Or, execC8And, execC8Xor]
    refine .inr ⟨_, fun _ => rfl, fun s u h => ?_⟩
    cases h; exact C8Frame.logicResult _ _ _
  case c8ShiftRight | c8ShiftLeft =>
    simp only [exec, execC8ShiftRight, execC8ShiftLeft]
    refine .inr ⟨_, fun _ => rfl, fun s u h => ?_⟩
    cases h; exact C8Frame.resultThenFlag _ _ _ _
  case c8KeyWait x =>
    simp only [exec, execC8KeyWait]
    refine .inr ⟨_, fun _ => rfl, fun s u h => ?_⟩
    cases h
    cases hk : Config.getKeyPressed s.draws with
    | none =>
      have k := C8Frame.keyWait x none s.tookDraw
      exact ⟨k.rest, ⟨[], rfl, rfl⟩, k.widths, k.depth, k.cpu⟩
    | some b =>
      have k := C8Frame.keyWait x (some b) s.tookDraw
      exact ⟨k.rest, ⟨[], rfl, rfl⟩, k.widths, k.depth, k.cpu⟩
  case c8Store =>
    simp only [exec, execC8Store]
    refine .inr ⟨_, fun _ => rfl, fun s u h => ?_⟩
    cases h; exact C8Frame.storeRegs _ _ _
  case c8Load =>
    simp only [exec, execC8Load]
    refine .inr ⟨_, fun _ => rfl, fun s u h => ?_⟩
    cases h; exact C8Frame.loadRegs _ _ _
  case c8Call =>
    simp only [exec, execC8Call]
    refine .inr ⟨_, fun _ => rfl, fun s u h => ?_⟩
    exact C8Frame.callTo h
  case c8Return =>
    simp only [exec, execC8Return]
    refine .inr ⟨_, fun _ => rfl, fun s u h => ?_⟩
    exact C8Frame.returnFromStack h
  case c8Unmapped =>
    simp only [exec, execC8Unmapped]
    refine .inr ⟨_, fun _ => rfl, fun s u h => ?_⟩
    cases h
  all_goals cases h

end Sys2Proof.Machine
end

