-- ==== Sys2Proof/Laws/PerInstr.lean ====
section
/-! SUPPORT. The family `EncodedLength`, one lemma per constructor: the encoder writes as many bytes as `Length(op)` of
30_encoding R73 says of the first byte; a CHIP-8 opcode takes two (48_dispatch R218). -/

namespace Sys2Proof.Laws.EncodedLength

open Sys2Proof

/-- The length of an instruction's encoding. -/
def Statement (i : Instr) : Prop :=
  (encode i).length =
    match i.engine with
    | .hardware => opcodeLength ((encode i).headD 0)
    | .fastPath => 2

theorem of_two {i : Instr} (op b : Byte) (he : i.engine = .hardware) (h : encode i = [op, b])
    (hl : opcodeLength op = 2) : Statement i := by
  simp only [Statement, he, h, List.headD_cons, hl]
  rfl

theorem of_three {i : Instr} (op b c : Byte) (he : i.engine = .hardware) (h : encode i = [op, b, c])
    (hl : opcodeLength op = 3) : Statement i := by
  simp only [Statement, he, h, List.headD_cons, hl]
  rfl

theorem inc (n : Nib) : Statement (.inc n) := by revert n; unfold Statement; decide
theorem dec (n : Nib) : Statement (.dec n) := by revert n; unfold Statement; decide
theorem irx : Statement .irx := rfl
theorem glo (n : Nib) : Statement (.glo n) := by revert n; unfold Statement; decide
theorem ghi (n : Nib) : Statement (.ghi n) := by revert n; unfold Statement; decide
theorem plo (n : Nib) : Statement (.plo n) := by revert n; unfold Statement; decide
theorem phi (n : Nib) : Statement (.phi n) := by revert n; unfold Statement; decide
theorem ldn (n : Nib) : Statement (.ldn n) := by revert n; unfold Statement; decide
theorem lda (n : Nib) : Statement (.lda n) := by revert n; unfold Statement; decide
theorem ldx : Statement .ldx := rfl
theorem ldxa : Statement .ldxa := rfl
theorem ldi (imm : Byte) : Statement (.ldi imm) := of_two 0xF8#8 imm rfl rfl rfl
theorem str (n : Nib) : Statement (.str n) := by revert n; unfold Statement; decide
theorem stxd : Statement .stxd := rfl
theorem or : Statement .or := rfl
theorem ori (imm : Byte) : Statement (.ori imm) := of_two 0xF9#8 imm rfl rfl rfl
theorem xor : Statement .xor := rfl
theorem xri (imm : Byte) : Statement (.xri imm) := of_two 0xFB#8 imm rfl rfl rfl
theorem and : Statement .and := rfl
theorem ani (imm : Byte) : Statement (.ani imm) := of_two 0xFA#8 imm rfl rfl rfl
theorem shr : Statement .shr := rfl
theorem shrc : Statement .shrc := rfl
theorem shl : Statement .shl := rfl
theorem shlc : Statement .shlc := rfl
theorem add : Statement .add := rfl
theorem adi (imm : Byte) : Statement (.adi imm) := of_two 0xFC#8 imm rfl rfl rfl
theorem adc : Statement .adc := rfl
theorem adci (imm : Byte) : Statement (.adci imm) := of_two 0x7C#8 imm rfl rfl rfl
theorem sd : Statement .sd := rfl
theorem sdi (imm : Byte) : Statement (.sdi imm) := of_two 0xFD#8 imm rfl rfl rfl
theorem sdb : Statement .sdb := rfl
theorem sdbi (imm : Byte) : Statement (.sdbi imm) := of_two 0x7D#8 imm rfl rfl rfl
theorem sm : Statement .sm := rfl
theorem smi (imm : Byte) : Statement (.smi imm) := of_two 0xFF#8 imm rfl rfl rfl
theorem smb : Statement .smb := rfl
theorem smbi (imm : Byte) : Statement (.smbi imm) := of_two 0x7F#8 imm rfl rfl rfl
theorem br (addr : Byte) : Statement (.br addr) := of_two 0x30#8 addr rfl rfl rfl
theorem bq (addr : Byte) : Statement (.bq addr) := of_two 0x31#8 addr rfl rfl rfl
theorem bz (addr : Byte) : Statement (.bz addr) := of_two 0x32#8 addr rfl rfl rfl
theorem bdf (addr : Byte) : Statement (.bdf addr) := of_two 0x33#8 addr rfl rfl rfl
theorem b1 (addr : Byte) : Statement (.b1 addr) := of_two 0x34#8 addr rfl rfl rfl
theorem b2 (addr : Byte) : Statement (.b2 addr) := of_two 0x35#8 addr rfl rfl rfl
theorem b3 (addr : Byte) : Statement (.b3 addr) := of_two 0x36#8 addr rfl rfl rfl
theorem b4 (addr : Byte) : Statement (.b4 addr) := of_two 0x37#8 addr rfl rfl rfl
theorem nbr (skipped : Byte) : Statement (.nbr skipped) := of_two 0x38#8 skipped rfl rfl rfl
theorem bnq (addr : Byte) : Statement (.bnq addr) := of_two 0x39#8 addr rfl rfl rfl
theorem bnz (addr : Byte) : Statement (.bnz addr) := of_two 0x3A#8 addr rfl rfl rfl
theorem bnf (addr : Byte) : Statement (.bnf addr) := of_two 0x3B#8 addr rfl rfl rfl
theorem bn1 (addr : Byte) : Statement (.bn1 addr) := of_two 0x3C#8 addr rfl rfl rfl
theorem bn2 (addr : Byte) : Statement (.bn2 addr) := of_two 0x3D#8 addr rfl rfl rfl
theorem bn3 (addr : Byte) : Statement (.bn3 addr) := of_two 0x3E#8 addr rfl rfl rfl
theorem bn4 (addr : Byte) : Statement (.bn4 addr) := of_two 0x3F#8 addr rfl rfl rfl
theorem lbr (addr : Word) : Statement (.lbr addr) := of_three 0xC0#8 _ _ rfl rfl rfl
theorem lbq (addr : Word) : Statement (.lbq addr) := of_three 0xC1#8 _ _ rfl rfl rfl
theorem lbz (addr : Word) : Statement (.lbz addr) := of_three 0xC2#8 _ _ rfl rfl rfl
theorem lbdf (addr : Word) : Statement (.lbdf addr) := of_three 0xC3#8 _ _ rfl rfl rfl
theorem lbnq (addr : Word) : Statement (.lbnq addr) := of_three 0xC9#8 _ _ rfl rfl rfl
theorem lbnz (addr : Word) : Statement (.lbnz addr) := of_three 0xCA#8 _ _ rfl rfl rfl
theorem lbnf (addr : Word) : Statement (.lbnf addr) := of_three 0xCB#8 _ _ rfl rfl rfl
theorem lskp : Statement .lskp := rfl
theorem lsnq : Statement .lsnq := rfl
theorem lsnz : Statement .lsnz := rfl
theorem lsnf : Statement .lsnf := rfl
theorem lsie : Statement .lsie := rfl
theorem lsq : Statement .lsq := rfl
theorem lsz : Statement .lsz := rfl
theorem lsdf : Statement .lsdf := rfl
theorem nop : Statement .nop := rfl
theorem idl : Statement .idl := rfl
theorem sep (n : Nib) : Statement (.sep n) := by revert n; unfold Statement; decide
theorem sex (n : Nib) : Statement (.sex n) := by revert n; unfold Statement; decide
theorem seq : Statement .seq := rfl
theorem req : Statement .req := rfl
theorem sav : Statement .sav := rfl
theorem mark : Statement .mark := rfl
theorem ret : Statement .ret := rfl
theorem dis : Statement .dis := rfl
theorem out (port : Port) : Statement (.out port) := by revert port; unfold Statement; decide
theorem inp (port : Port) : Statement (.inp port) := by revert port; unfold Statement; decide
theorem reserved : Statement .reserved := rfl
theorem c8Or (x y : Nib) : Statement (.c8Or x y) := rfl
theorem c8And (x y : Nib) : Statement (.c8And x y) := rfl
theorem c8Xor (x y : Nib) : Statement (.c8Xor x y) := rfl
theorem c8ShiftRight (x y : Nib) : Statement (.c8ShiftRight x y) := rfl
theorem c8ShiftLeft (x y : Nib) : Statement (.c8ShiftLeft x y) := rfl
theorem c8Draw (x y n : Nib) : Statement (.c8Draw x y n) := rfl
theorem c8KeyWait (x : Nib) : Statement (.c8KeyWait x) := rfl
theorem c8Store (x : Nib) : Statement (.c8Store x) := rfl
theorem c8Load (x : Nib) : Statement (.c8Load x) := rfl
theorem c8Call (nnn : BitVec 12) : Statement (.c8Call nnn) := rfl
theorem c8Return : Statement .c8Return := rfl
theorem c8Unmapped (op : Word) : Statement (.c8Unmapped op) := rfl

end Sys2Proof.Laws.EncodedLength
end

