-- ==== Sys2Proof/Laws/Step.lean ====
section
/-! SUPPORT. Everything a step can do, said once: the cases of `step`, of a `CoreStep`, of an instruction of each
engine. -/

namespace Sys2Proof.Machine

/-- The mode after an instruction: only `execMode` can change, and only to `Paused`. -/
theorem modeAfter_eq (w : Bool) (s : State) :
    ∃ m, modeAfter w s = { s with execMode := m } ∧ (m = s.execMode ∨ m = .paused) := by
  cases h : s.execMode <;> simp only [modeAfter, h]
  · exact ⟨.running, by rw [← h], .inl rfl⟩
  · exact ⟨.paused, by rw [← h], .inl rfl⟩
  · exact ⟨.paused, rfl, .inr rfl⟩
  · split_ifs
    · exact ⟨.paused, rfl, .inr rfl⟩
    · exact ⟨.stepOver, by rw [← h], .inl rfl⟩
  · cases w
    · exact ⟨.stepOut, by rw [← h]; rfl, .inl rfl⟩
    · exact ⟨.paused, rfl, .inr rfl⟩

/-- The same with the breakpoint check. -/
theorem afterInstruction_eq (w : Bool) (s : State) :
    ∃ m, afterInstruction w s = { s with execMode := m } ∧ (m = s.execMode ∨ m = .paused) := by
  obtain ⟨m, e, h⟩ := modeAfter_eq w s
  simp only [afterInstruction, breakCheck, e]
  by_cases hb : s.breakpoints.any (fun b => b.addr == s.pc8) = true
  · exact ⟨.paused, by rw [if_pos hb], .inr rfl⟩
  · exact ⟨m, by rw [if_neg hb], h⟩

/-- A mode change touches the mode and the recorded depth only. -/
theorem setExecMode_eq (m : ExecMode) (s : State) :
    ∃ k, setExecMode m s = if s.cpuState = .error then s else { s with execMode := m, stepOverDepth := k } := by
  simp only [setExecMode]
  cases m <;> exact ⟨_, rfl⟩

/-- The tick of a machine without a fault touches the timers and the frame count only. -/
theorem timerTick_eq (s : State) (h : s.fault = none) :
    ∃ dt st, timerTick s = { s with dt := dt, st := st, frames8 := s.frames8 + 1 } := by
  simp only [timerTick, h, Option.isSome_none, Bool.false_eq_true, if_false]
  exact ⟨_, _, rfl⟩

/-- The beginning of a frame touches the countdown and the draws only. -/
theorem beginFrame_eq (s : State) : ∃ k d, beginFrame s = { s with frameLeft := some k, draws := d } := by
  simp only [beginFrame]
  split <;> exact ⟨_, _, rfl⟩

/-- A pause inside a frame touches the timers, the frame count and the countdown only, and no faulted machine. -/
theorem pauseFrame_eq (s : State) :
    pauseFrame s = s ∨ s.fault = none ∧ s.cfg.engine = .fastPath ∧
      ∃ dt st f, pauseFrame s = { s with dt := dt, st := st, frames8 := f, frameLeft := none } := by
  simp only [pauseFrame]
  split_ifs with h ht
  · simp only [Bool.and_eq_true, Option.isNone_iff_eq_none, beq_iff_eq] at h
    obtain ⟨dt, st, e⟩ := timerTick_eq s h.1.1.1
    exact .inr ⟨h.1.1.1, h.1.1.2, dt, st, _, by rw [endFrame, e]⟩
  · simp only [Bool.and_eq_true, Option.isNone_iff_eq_none, beq_iff_eq] at h
    exact .inr ⟨h.1.1.1, h.1.1.2, _, _, _, rfl⟩
  · exact .inl rfl

/-- `setBreakpoint` keeps the map in its order. -/
theorem insertBreakpoint_pairwise (b : Breakpoint) (m : List Breakpoint)
    (h : m.Pairwise (fun a b => a.addr < b.addr)) :
    (insertBreakpoint b m).Pairwise (fun a b => a.addr < b.addr) ∧
      ∀ x ∈ insertBreakpoint b m, x = b ∨ x ∈ m := by
  induction m with
  | nil => simp [insertBreakpoint]
  | cons c rest ih =>
    obtain ⟨hc, hr⟩ := List.pairwise_cons.1 h
    obtain ⟨ih1, ih2⟩ := ih hr
    simp only [insertBreakpoint]
    split_ifs with h1 h2
    · exact ⟨List.pairwise_cons.2 ⟨by
        rintro x (_ | ⟨_, hx⟩)
        · exact h1
        · exact BitVec.lt_trans h1 (hc x hx), h⟩, by simp⟩
    · exact ⟨List.pairwise_cons.2 ⟨fun x hx => h2 ▸ hc x hx, hr⟩, by
        intro x hx; rcases List.mem_cons.1 hx with e | e
        · exact .inl e
        · exact .inr (List.mem_cons_of_mem _ e)⟩
    · refine ⟨List.pairwise_cons.2 ⟨fun x hx => ?_, ih1⟩, ?_⟩
      · rcases ih2 x hx with rfl | hx
        · bv_omega
        · exact hc x hx
      · intro x hx
        rcases List.mem_cons.1 hx with e | e
        · exact .inr (e ▸ List.mem_cons_self)
        · rcases ih2 x e with e | e
          · exact .inl e
          · exact .inr (List.mem_cons_of_mem _ e)

/-- The ready state of the fast-forward (70_reset R307): its post-condition, and what it keeps. -/
theorem readyState_post (s : State) :
    (readyState s).pc = Config.reentryAddr ∧ (readyState s).pc8 = s.cfg.startAddr ∧
      (readyState s).v = Vector.replicate 16 0 ∧ (readyState s).cpuState = .normal ∧ (readyState s).cycles8 = 0 ∧
      (readyState s).frames8 = 0 ∧ (readyState s).phase = .ready ∧ (readyState s).cfg = s.cfg ∧
      (readyState s).fault = s.fault ∧ (readyState s).execMode = s.execMode ∧ (readyState s).mem = s.mem ∧
      (readyState s).pad = s.pad :=
  ⟨reg_setReg_same _ _ _, rfl, rfl, rfl, rfl, rfl, rfl, rfl, rfl, rfl, rfl, rfl⟩

/-- The CDP1802's part touches its own registers only. -/
theorem resetCpu_eq (s : State) :
    ∃ r, resetCpu s = { s with r := r, i := 0, n := 0, q := false, ie := true, x := 0, p := 0, idle := false } := by
  simp only [resetCpu]
  split_ifs <;> exact ⟨_, rfl⟩

/-- Everything a DMA-out cycle can do (60_exceptions R262). -/
theorem dmaOutCycle_cases (s : State) :
    (∃ v, memRead s (s.reg 0) = .ok v ∧
      dmaOutCycle s =
        { (s.setReg 0 (s.reg 0 + 1)).emit (.dmaOut s.cycles (s.reg 0) v) with
          idle := false, cycles := s.cycles + 1 }) ∨
    ∃ f, memRead s (s.reg 0) = .error f ∧ dmaOutCycle s = enterFault f s := by
  cases h : memRead s (s.reg 0) with
  | ok v => exact .inl ⟨v, rfl, by simp only [dmaOutCycle, h]⟩
  | error f => exact .inr ⟨f, rfl, by simp only [dmaOutCycle, h]⟩

/-- What follows an `ExecuteCdp1802` touches the mode, the phase, the tick mark and two counters only. -/
theorem afterExecute_eq (s t : State) (hit : Bool) :
    ∃ m ph tk c f, afterExecute s t hit =
        { t with execMode := m, phase := ph, inTick := tk, cycles8 := c, frames8 := f } ∧
      (m = t.execMode ∨ m = .paused) := by
  simp only [afterExecute]
  split
  · split <;> exact ⟨_, _, _, _, _, rfl, .inl rfl⟩
  · split
    · split_ifs
      · exact ⟨_, _, _, _, _, rfl, .inl rfl⟩
      · exact ⟨_, _, _, _, _, rfl, .inl rfl⟩
    · exact ⟨_, _, _, _, _, rfl, .inl rfl⟩
    · obtain ⟨m, e, h⟩ := afterInstruction_eq (decide (t.sp8 < s.sp8)) { t with inTick := false }
      rw [e]
      exact ⟨m, _, _, _, _, rfl, h⟩
    · exact ⟨_, _, _, _, _, rfl, .inl rfl⟩

/-- What follows a `FastStep` touches the mode only. -/
theorem afterFastStep_eq (op : Word) (t : State) :
    ∃ m, afterFastStep op t = { t with execMode := m } ∧ (m = t.execMode ∨ m = .paused) := by
  simp only [afterFastStep]
  split_ifs
  · exact ⟨_, rfl, .inl rfl⟩
  · exact afterInstruction_eq _ t

/-- What follows a `Tick8` touches the countdown, and at a pause the timers and the frame count; after a fault nothing. -/
theorem afterTick8_eq (k : Nat) (t : State) :
    (t.fault.isSome = true ∧ afterTick8 k t = t) ∨
      (t.fault = none ∧ ∃ dt st f l, afterTick8 k t = { t with dt := dt, st := st, frames8 := f, frameLeft := l }) := by
  by_cases hf : t.fault = none
  · refine .inr ⟨hf, ?_⟩
    have hc : countDown k t = { t with frameLeft := some k } := by simp [countDown, hf]
    rw [afterTick8, hc]
    rcases pauseFrame_eq { t with frameLeft := some k } with e | ⟨-, -, dt, st, f, e⟩
    · exact ⟨_, _, _, _, e⟩
    · exact ⟨_, _, _, _, e⟩
  · have hs : t.fault.isSome = true := by simpa [Option.isSome_iff_ne_none] using hf
    exact .inl ⟨hs, by simp [afterTick8, countDown, pauseFrame, hs, hf]⟩

/-- Everything a CDP1802 instruction can answer: its execute part ran and kept the frame, or a fault was entered. -/
theorem exec_hardware_cases (i : Instr) (h : i.engine = .hardware) (s : State) :
    (∃ u, exec i s = .next (countCycles u) ∧ HwFrame (fetched ((encode i).headD 0) s) u) ∨
      ∃ f, exec i s = .next (enterFault f s) := by
  obtain ⟨body, e, hb⟩ := exec_hwFrame i h
  rcases instructionStep_cases ((encode i).headD 0) body s with ⟨u, hu, e2⟩ | ⟨f, -, e2⟩
  · exact .inl ⟨u, (e s).trans e2, hb _ _ hu⟩
  · exact .inr ⟨f, (e s).trans e2⟩

/-- Everything a CHIP-8 handler can answer: it ran and kept the frame, a parameter handler answered, or a fault was
entered. -/
theorem exec_fastPath_cases (i : Instr) (h : i.engine = .fastPath) (s : State) :
    (∃ u, exec i s = .next u ∧ C8Frame (fetched8 s) u) ∨
      (∃ e, exec i s = .next (applyEffect e (fetched8 s))) ∨ ∃ f, exec i s = .next (enterFault f s) := by
  rcases exec_c8Frame i h with ⟨x, y, n, rfl⟩ | ⟨body, e, hb⟩
  · simp only [exec, execC8Draw, runHandler]
    split
    · exact .inr (.inl ⟨_, rfl⟩)
    · exact .inr (.inr ⟨_, rfl⟩)
  · rcases handlerStep_cases body s with ⟨u, hu, e2⟩ | ⟨f, -, e2⟩
    · exact .inl ⟨u, (e s).trans e2, hb _ _ hu⟩
    · exact .inr (.inr ⟨f, (e s).trans e2⟩)

/-- The same of `FastStep`. -/
theorem fastStep_cases (s : State) :
    (∃ u, fastStep s = .next u ∧ C8Frame (fetched8 s) u) ∨
      (∃ e, fastStep s = .next (applyEffect e (fetched8 s))) ∨ ∃ f, fastStep s = .next (enterFault f s) := by
  simp only [fastStep, dispatchOpcode]
  split
  · simp only [runHandler]
    split
    · exact .inr (.inl ⟨_, rfl⟩)
    · exact .inr (.inr ⟨_, rfl⟩)
  · exact exec_fastPath_cases _ (Handler.instr_engine _ _) s

/-- Everything a `CoreStep` can do. -/
theorem coreStep_cases (s : State) :
    (nextCycle s = .dmaOut ∧ coreStep s = .next (countFrame s (dmaOutCycle s))) ∨
    (nextCycle s = .interrupt ∧ coreStep s = .next (countFrame s (interruptCycle s))) ∨
    (nextCycle s = .idle ∧ coreStep s = .next (countFrame s { s with cycles := s.cycles + 1 })) ∨
    (nextCycle s = .instruction ∧
      ((∃ op u, memRead s s.pc = .ok op ∧ coreStep s = .next (countFrame s (countCycles u)) ∧ HwFrame (fetched op s) u) ∨
        ∃ f, coreStep s = .next (countFrame s (enterFault f s)))) := by
  cases hn : nextCycle s
  case dmaIn =>
    exfalso
    simp only [nextCycle, dmaInReq, Bool.false_eq_true, if_false] at hn
    split_ifs at hn
  case dmaOut => exact .inl ⟨rfl, by simp only [coreStep, hn, mapNext]⟩
  case interrupt => exact .inr (.inl ⟨rfl, by simp only [coreStep, hn, mapNext]⟩)
  case idle => exact .inr (.inr (.inl ⟨rfl, by simp only [coreStep, hn, mapNext]⟩))
  case instruction =>
    refine .inr (.inr (.inr ⟨rfl, ?_⟩))
    cases hm : memRead s s.pc with
    | error f => exact .inr ⟨f, by simp only [coreStep, hn, runInstruction, instructionAt, hm, mapNext]⟩
    | ok op =>
      have he := instrOf_engine op (byteAhead s 1) (byteAhead s 2)
      rcases exec_hardware_cases _ he.1 s with ⟨u, e, hu⟩ | ⟨f, e⟩
      · rw [he.2] at hu
        exact .inl ⟨op, u, rfl, by simp only [coreStep, hn, runInstruction, instructionAt, hm, e, mapNext], hu⟩
      · exact .inr ⟨f, by simp only [coreStep, hn, runInstruction, instructionAt, hm, e, mapNext]⟩

/-- A `CoreStep` always answers a next state. -/
theorem coreStep_next (s : State) : ∃ t, coreStep s = .next t := by
  rcases coreStep_cases s with ⟨-, e⟩ | ⟨-, e⟩ | ⟨-, e⟩ | ⟨-, ⟨_, u, -, e, -⟩ | ⟨f, e⟩⟩ <;> exact ⟨_, e⟩

/-- A step of the backend is the fast-forward's post-condition, or a `CoreStep`, the re-entry test and what follows. -/
theorem backendStep_eq {s t : State} (h : coreStep s = .next t) :
    backendStep s =
      if takesPostCondition s then .next (readyState s)
      else .next (afterExecute s (if reentered s t then atReentry t else t) (reentered s t)) := by
  simp only [backendStep, executeCdp1802, h]

/-- `takesPostCondition`, spelled out. -/
theorem takesPostCondition_iff (s : State) :
    takesPostCondition s = true ↔ s.phase = .fastForward ∧ s.cfg.fastForward = .postCondition := by
  simp [takesPostCondition]

/-- `FastStep` always answers a next state. -/
theorem fastStep_next (s : State) : ∃ t, fastStep s = .next t := by
  rcases fastStep_cases s with ⟨u, e, -⟩ | ⟨x, e⟩ | ⟨f, e⟩ <;> exact ⟨_, e⟩

/-- Everything a step can do. -/
theorem step_cases (s : State) :
    (∃ s', takeAction s = some s' ∧ step s = .next s') ∨
    (takeAction s = none ∧ ∃ f, s.fault = some f ∧ step s = .fault (.halted f)) ∨
    (takeAction s = none ∧ s.fault = none ∧ held s = true ∧ step s = .next s) ∨
    (takeAction s = none ∧ s.fault = none ∧ held s = false ∧ s.cfg.engine = .hardware ∧
      ((takesPostCondition s = true ∧ step s = .next (readyState s)) ∨
        takesPostCondition s = false ∧ ∃ t, coreStep s = .next t ∧
          step s = .next (afterExecute s (if reentered s t then atReentry t else t) (reentered s t)))) ∨
    (takeAction s = none ∧ s.fault = none ∧ held s = false ∧ s.cfg.engine = .fastPath ∧
      ((s.frameLeft = none ∧ step s = .next (beginFrame s)) ∨ (s.frameLeft = some 0 ∧ step s = .next (endFrame s)) ∨
        ∃ k t, s.frameLeft = some (k + 1) ∧ fastStep s = .next t ∧
          step s = .next (afterTick8 k (afterFastStep (fetchOpcode s) t)))) := by
  cases ht : takeAction s with
  | some s' => exact .inl ⟨s', rfl, by simp only [step, machineStep, ht]⟩
  | none =>
    cases hf : s.fault with
    | some f => exact .inr (.inl ⟨rfl, f, rfl, by simp only [step, machineStep, ht, runStep, hf]⟩)
    | none =>
      cases hh : held s with
      | true =>
        exact .inr (.inr (.inl ⟨rfl, rfl, rfl, by simp only [step, machineStep, ht, runStep, hf, hh, if_true]⟩))
      | false =>
        cases he : s.cfg.engine with
        | hardware =>
          obtain ⟨t, e⟩ := coreStep_next s
          refine .inr (.inr (.inr (.inl ⟨rfl, rfl, rfl, rfl, ?_⟩)))
          have hs : step s = backendStep s := by
            simp only [step, machineStep, ht, runStep, hf, hh, he, Bool.false_eq_true, if_false]
          rw [hs, backendStep_eq e]
          cases hp : takesPostCondition s with
          | true => exact .inl ⟨rfl, rfl⟩
          | false => exact .inr ⟨rfl, t, e, rfl⟩
        | fastPath =>
          refine .inr (.inr (.inr (.inr ⟨rfl, rfl, rfl, rfl, ?_⟩)))
          have hs : step s = fastPathStep s := by
            simp only [step, machineStep, ht, runStep, hf, hh, he, Bool.false_eq_true, if_false]
          rcases hl : s.frameLeft with _ | (_ | k)
          · exact .inl ⟨rfl, by rw [hs]; simp only [fastPathStep, hl]⟩
          · exact .inr (.inl ⟨rfl, by rw [hs]; simp only [fastPathStep, hl]⟩)
          · obtain ⟨t, e⟩ := fastStep_next s
            refine .inr (.inr ⟨k, t, rfl, e, ?_⟩)
            have hb : ¬ (s.cpuState = .error ∨ s.execMode = .paused) := by
              intro h
              have : held s = true := by
                rcases h with h | h <;> simp [held, he, h]
              rw [this] at hh; cases hh
            rw [hs]
            simp only [fastPathStep, hl, tick8, if_neg hb, e, mapNext]

end Sys2Proof.Machine
end

