-- ==== Sys2Proof/Tests/Slice0.lean ====
section
/-! SUPPORT. Tests. Expected values are those of spec/95_test_vectors.md (sections 2.1 to 2.15, programs P3, P6, P7) or
worked out by hand from the rule named; words are written out from the tables of 30_encoding R71, R74 and
48_dispatch R215, R216. The last part gives each statement with hypotheses a state and operands that meet them. -/

namespace Sys2Proof.Tests

open Sys2Proof Sys2Proof.Machine Sys2Proof.Slice0

/-! ## Well-formedness: one ill-formed term for each check -/

theorem test_wf_refuses_ldn0 : (Instr.ldn 0).wf = false := by decide
theorem test_wf_refuses_out0 : (Instr.out 0).wf = false := by decide
theorem test_wf_refuses_inp0 : (Instr.inp 0).wf = false := by decide
theorem test_wf_refuses_mapped : (Instr.c8Unmapped 0x8126).wf = false := by decide
theorem test_wf_accepts :
    (Instr.ldn 1).wf = true ∧ (Instr.out 7).wf = true ∧ (Instr.inp 1).wf = true ∧ (Instr.c8Unmapped 0x8127).wf = true := by
  decide

/-! ## Decoding: a word of every constructor -/

/-- The instruction at the head of CDP1802 bytes. -/
def at1802 (bytes : List Byte) : Option Instr :=
  match decode1802 bytes with
  | .ok (i, _) => some i
  | .error _ => none

/-- The instruction at the head of CHIP-8 bytes. -/
def atChip8 (bytes : List Byte) : Option Instr :=
  match decodeChip8 bytes with
  | .ok (i, _) => some i
  | .error _ => none

theorem test_decode_register :
    at1802 [0b00011010#8] = some (.inc 10) ∧ at1802 [0b00100101#8] = some (.dec 5) ∧
    at1802 [0b01100000#8] = some .irx ∧ at1802 [0b10000011#8] = some (.glo 3) ∧
    at1802 [0b10011100#8] = some (.ghi 12) ∧ at1802 [0b10100001#8] = some (.plo 1) ∧
    at1802 [0b10111111#8] = some (.phi 15) := by decide

theorem test_decode_memory :
    at1802 [0b00000001#8] = some (.ldn 1) ∧ at1802 [0b01000000#8] = some (.lda 0) ∧
    at1802 [0b11110000#8] = some .ldx ∧ at1802 [0b01110010#8] = some .ldxa ∧
    at1802 [0b11111000#8, 0xC3#8] = some (.ldi 0xC3) ∧ at1802 [0b01011001#8] = some (.str 9) ∧
    at1802 [0b01110011#8] = some .stxd := by decide

theorem test_decode_logic :
    at1802 [0b11110001#8] = some .or ∧ at1802 [0b11111001#8, 0x81#8] = some (.ori 0x81) ∧
    at1802 [0b11110011#8] = some .xor ∧ at1802 [0b11111011#8, 0xFF#8] = some (.xri 0xFF) ∧
    at1802 [0b11110010#8] = some .and ∧ at1802 [0b11111010#8, 0x01#8] = some (.ani 0x01) ∧
    at1802 [0b11110110#8] = some .shr ∧ at1802 [0b01110110#8] = some .shrc ∧
    at1802 [0b11111110#8] = some .shl ∧ at1802 [0b01111110#8] = some .shlc := by decide

theorem test_decode_arithmetic :
    at1802 [0b11110100#8] = some .add ∧ at1802 [0b11111100#8, 0x12#8] = some (.adi 0x12) ∧
    at1802 [0b01110100#8] = some .adc ∧ at1802 [0b01111100#8, 0x34#8] = some (.adci 0x34) ∧
    at1802 [0b11110101#8] = some .sd ∧ at1802 [0b11111101#8, 0x56#8] = some (.sdi 0x56) ∧
    at1802 [0b01110101#8] = some .sdb ∧ at1802 [0b01111101#8, 0x78#8] = some (.sdbi 0x78) ∧
    at1802 [0b11110111#8] = some .sm ∧ at1802 [0b11111111#8, 0x9A#8] = some (.smi 0x9A) ∧
    at1802 [0b01110111#8] = some .smb ∧ at1802 [0b01111111#8, 0xBC#8] = some (.smbi 0xBC) := by decide

theorem test_decode_short_branch :
    at1802 [0b00110000#8, 0x44#8] = some (.br 0x44) ∧ at1802 [0b00110001#8, 0x45#8] = some (.bq 0x45) ∧
    at1802 [0b00110010#8, 0x46#8] = some (.bz 0x46) ∧ at1802 [0b00110011#8, 0x47#8] = some (.bdf 0x47) ∧
    at1802 [0b00110100#8, 0x48#8] = some (.b1 0x48) ∧ at1802 [0b00110101#8, 0x49#8] = some (.b2 0x49) ∧
    at1802 [0b00110110#8, 0x4A#8] = some (.b3 0x4A) ∧ at1802 [0b00110111#8, 0x4B#8] = some (.b4 0x4B) ∧
    at1802 [0b00111000#8, 0x4C#8] = some (.nbr 0x4C) ∧ at1802 [0b00111001#8, 0x4D#8] = some (.bnq 0x4D) ∧
    at1802 [0b00111010#8, 0x4E#8] = some (.bnz 0x4E) ∧ at1802 [0b00111011#8, 0x4F#8] = some (.bnf 0x4F) ∧
    at1802 [0b00111100#8, 0x50#8] = some (.bn1 0x50) ∧ at1802 [0b00111101#8, 0x51#8] = some (.bn2 0x51) ∧
    at1802 [0b00111110#8, 0x52#8] = some (.bn3 0x52) ∧ at1802 [0b00111111#8, 0x53#8] = some (.bn4 0x53) := by decide

theorem test_decode_long_branch :
    at1802 [0b11000000#8, 0x0A#8, 0xBC#8] = some (.lbr 0x0ABC) ∧
    at1802 [0b11000001#8, 0x0A#8, 0xBC#8] = some (.lbq 0x0ABC) ∧
    at1802 [0b11000010#8, 0x0A#8, 0xBC#8] = some (.lbz 0x0ABC) ∧
    at1802 [0b11000011#8, 0x0A#8, 0xBC#8] = some (.lbdf 0x0ABC) ∧
    at1802 [0b11001001#8, 0x0A#8, 0xBC#8] = some (.lbnq 0x0ABC) ∧
    at1802 [0b11001010#8, 0x0A#8, 0xBC#8] = some (.lbnz 0x0ABC) ∧
    at1802 [0b11001011#8, 0x0A#8, 0xBC#8] = some (.lbnf 0x0ABC) := by decide

theorem test_decode_long_skip :
    at1802 [0b11000100#8] = some .nop ∧ at1802 [0b11000101#8] = some .lsnq ∧ at1802 [0b11000110#8] = some .lsnz ∧
    at1802 [0b11000111#8] = some .lsnf ∧ at1802 [0b11001000#8] = some .lskp ∧ at1802 [0b11001100#8] = some .lsie ∧
    at1802 [0b11001101#8] = some .lsq ∧ at1802 [0b11001110#8] = some .lsz ∧ at1802 [0b11001111#8] = some .lsdf := by
  decide

theorem test_decode_control :
    at1802 [0b00000000#8] = some .idl ∧ at1802 [0b11010100#8] = some (.sep 4) ∧ at1802 [0b11100101#8] = some (.sex 5) ∧
    at1802 [0b01111011#8] = some .seq ∧ at1802 [0b01111010#8] = some .req ∧ at1802 [0b01111000#8] = some .sav ∧
    at1802 [0b01111001#8] = some .mark ∧ at1802 [0b01110000#8] = some .ret ∧ at1802 [0b01110001#8] = some .dis := by
  decide

theorem test_decode_io :
    at1802 [0b01100111#8] = some (.out 7) ∧ at1802 [0b01100001#8] = some (.out 1) ∧
    at1802 [0b01101001#8] = some (.inp 1) ∧ at1802 [0b01101111#8] = some (.inp 7) ∧
    at1802 [0b01101000#8] = some .reserved := by decide

theorem test_decode_chip8 :
    atChip8 [0x8A#8, 0xB1#8] = some (.c8Or 0xA 0xB) ∧ atChip8 [0x8A#8, 0xB2#8] = some (.c8And 0xA 0xB) ∧
    atChip8 [0x8A#8, 0xB3#8] = some (.c8Xor 0xA 0xB) ∧ atChip8 [0x8A#8, 0xB6#8] = some (.c8ShiftRight 0xA 0xB) ∧
    atChip8 [0x8A#8, 0xBE#8] = some (.c8ShiftLeft 0xA 0xB) ∧ atChip8 [0xDA#8, 0xBC#8] = some (.c8Draw 0xA 0xB 0xC) ∧
    atChip8 [0xF3#8, 0x0A#8] = some (.c8KeyWait 3) ∧ atChip8 [0xF3#8, 0x55#8] = some (.c8Store 3) ∧
    atChip8 [0xF3#8, 0x65#8] = some (.c8Load 3) ∧ atChip8 [0x2A#8, 0xBC#8] = some (.c8Call 0xABC) ∧
    atChip8 [0x00#8, 0xEE#8] = some .c8Return ∧ atChip8 [0xFF#8, 0xFF#8] = some (.c8Unmapped 0xFFFF) := by decide

/-- Operand bytes that are missing are refused by name. -/
theorem test_decode_short_of_bytes :
    at1802 [] = none ∧ at1802 [0xF8#8] = none ∧ at1802 [0xC0#8, 0x01#8] = none ∧ atChip8 [0x2A#8] = none := by decide

/-- The host's table words (log 22). -/
theorem test_table_words :
    decodeTableWord 8 0x15 = some (.inc 5) ∧ decodeTableWord 8 0xC0 = some (.lbr 0) ∧
    decodeTableWord 16 0x2ABC = some (.c8Call 0xABC) := by decide

/-! ## One instruction on a small state -/

/-- The start state of 95_test_vectors. -/
def vec : State :=
  { State.reset with
    p := 3, x := 2, r := #v[0, 0, 0x0E80, 0x0100, 0, 0, 0, 0, 0, 0, 0, 0, 0, 0, 0, 0], cycles := 100, bootLatch := false,
    phase := .ready, execMode := .running }

/-- `vec` with one byte in memory. -/
def vecM (a : Nat) (b : Byte) : State := { vec with mem := [(a, b)] }

/-- A field of the next state. -/
def got {α : Type} (o : Result) (f : State → α) : Option α :=
  match o with
  | .next t => some (f t)
  | .fault _ => none
  | .refused _ => none

/-- A field of the state after an instruction. -/
def after {α : Type} (i : Instr) (s : State) (f : State → α) : Option α := got (exec i s) f

theorem test_inc_wrap : after (.inc 5) (vec.setReg 5 0xFFFF) (fun t => (t.reg 5, t.pc, t.cycles)) =
    some (0x0000, 0x0101, 102) := by decide
theorem test_inc_pc : after (.inc 3) vec (fun t => (t.pc, t.cycles)) = some (0x0102, 102) := by decide
theorem test_dec_wrap : after (.dec 5) vec (fun t => (t.reg 5, t.pc)) = some (0xFFFF, 0x0101) := by decide
theorem test_irx_wrap : after .irx (vec.setReg 2 0xFFFF) (fun t => (t.reg 2, t.pc)) = some (0x0000, 0x0101) := by decide
theorem test_glo : after (.glo 5) (vec.setReg 5 0x12AB) (fun t => (t.d, t.pc)) = some (0xAB, 0x0101) := by decide
theorem test_glo_pc : after (.glo 3) vec (fun t => t.d) = some 0x01 := by decide
theorem test_ghi : after (.ghi 5) (vec.setReg 5 0x12AB) (fun t => (t.d, t.pc)) = some (0x12, 0x0101) := by decide
theorem test_plo : after (.plo 5) { vec.setReg 5 0x12AB with d := 0xCD } (fun t => t.reg 5) = some 0x12CD := by decide
theorem test_plo_pc : after (.plo 3) { vec with d := 0x40 } (fun t => t.pc) = some 0x0140 := by decide
theorem test_phi : after (.phi 5) { vec.setReg 5 0x12AB with d := 0xCD } (fun t => t.reg 5) = some 0xCDAB := by decide

theorem test_ldn : after (.ldn 5) ((vecM 0x300 0x77).setReg 5 0x0300) (fun t => (t.d, t.reg 5, t.pc, t.cycles)) =
    some (0x77, 0x0300, 0x0101, 102) := by decide
theorem test_ldn_no_window : after (.ldn 5) (vec.setReg 5 0x1000)
    (fun t => (t.fault, t.pc, t.cycles, t.cpuState, t.execMode)) =
    some (some (.hardwareFault .read 0x1000), 0x0100, 100, .error, .paused) := by decide
theorem test_lda_last_byte : after (.lda 5) ((vecM 0xFFF 0x99).setReg 5 0x0FFF) (fun t => (t.d, t.reg 5, t.fault)) =
    some (0x99, 0x1000, none) := by decide
theorem test_lda_pc : after (.lda 3) (vecM 0x101 0x7E) (fun t => (t.d, t.pc)) = some (0x7E, 0x0102) := by decide
theorem test_ldx : after .ldx (vecM 0xE80 0x5A) (fun t => (t.d, t.reg 2)) = some (0x5A, 0x0E80) := by decide
theorem test_ldxa : after .ldxa (vecM 0xE80 0x5A) (fun t => (t.d, t.reg 2)) = some (0x5A, 0x0E81) := by decide
theorem test_ldi : after (.ldi 0xC3) vec (fun t => (t.d, t.pc, t.cycles)) = some (0xC3, 0x0102, 102) := by decide
theorem test_str : after (.str 5) { vec.setReg 5 0x0300 with d := 0xEE } (fun t => (t.mem, t.pc)) =
    some ([(0x300, 0xEE)], 0x0101) := by decide
theorem test_str_rom : after (.str 5) { vec.setReg 5 0x8000 with d := 0x01 } (fun t => (t.fault, t.pc, t.cycles)) =
    some (some (.hardwareFault .write 0x8000), 0x0100, 100) := by decide
theorem test_stxd : after .stxd { vec with d := 0xEE } (fun t => (t.mem, t.reg 2)) =
    some ([(0xE80, 0xEE)], 0x0E7F) := by decide

theorem test_or : after .or { vecM 0xE80 0x0F with d := 0x5A } (fun t => (t.d, t.pc)) = some (0x5F, 0x0101) := by decide
theorem test_and : after .and { vecM 0xE80 0x0F with d := 0x5A } (fun t => t.d) = some 0x0A := by decide
theorem test_xor : after .xor { vecM 0xE80 0x0F with d := 0x5A } (fun t => t.d) = some 0x55 := by decide
theorem test_ori : after (.ori 0x81) { vec with d := 0x5A } (fun t => (t.d, t.pc)) = some (0xDB, 0x0102) := by decide
theorem test_ani : after (.ani 0x81) { vec with d := 0xDB } (fun t => (t.d, t.pc)) = some (0x81, 0x0102) := by decide
theorem test_xri : after (.xri 0xFF) { vec with d := 0x5A, df := true } (fun t => (t.d, t.df, t.pc)) =
    some (0xA5, true, 0x0102) := by decide
theorem test_shr : after .shr { vec with d := 0x81 } (fun t => (t.d, t.df)) = some (0x40, true) := by decide
theorem test_shrc : after .shrc { vec with d := 0x81, df := true } (fun t => (t.d, t.df)) = some (0xC0, true) := by decide
theorem test_shl : after .shl { vec with d := 0x81 } (fun t => (t.d, t.df)) = some (0x02, true) := by decide
theorem test_shlc : after .shlc { vec with d := 0x40, df := true } (fun t => (t.d, t.df)) = some (0x81, false) := by
  decide

theorem test_add_carry : after .add { vecM 0xE80 0x64 with d := 0xC8 } (fun t => (t.d, t.df)) = some (0x2C, true) := by
  decide
theorem test_adi_clears : after (.adi 0x00) { vec with df := true } (fun t => (t.d, t.df)) = some (0x00, false) := by
  decide
theorem test_adc_largest : after .adc { vecM 0xE80 0xFF with d := 0xFF, df := true } (fun t => (t.d, t.df)) =
    some (0xFF, true) := by decide
theorem test_adci : after (.adci 0x00) { vec with d := 0xFF, df := true } (fun t => (t.d, t.df)) =
    some (0x00, true) := by decide
theorem test_sd_borrow : after .sd { vecM 0xE80 0x0E with d := 0x77 } (fun t => (t.d, t.df)) = some (0x97, false) := by
  decide
theorem test_sdi_zero : after (.sdi 0x00) vec (fun t => (t.d, t.df)) = some (0x00, true) := by decide
theorem test_sdb : after .sdb { vecM 0xE80 0x4B with d := 0x3A } (fun t => (t.d, t.df)) = some (0x10, true) := by decide
theorem test_sdbi : after (.sdbi 0x10) { vec with d := 0x10 } (fun t => (t.d, t.df)) = some (0xFF, false) := by decide
theorem test_sm : after .sm { vecM 0xE80 0x4B with d := 0x3A } (fun t => (t.d, t.df)) = some (0xEF, false) := by decide
theorem test_smi : after (.smi 0x01) vec (fun t => (t.d, t.df)) = some (0xFF, false) := by decide
theorem test_smb : after .smb { vecM 0xE80 0x0E with d := 0x77 } (fun t => (t.d, t.df)) = some (0x68, true) := by decide
theorem test_smbi : after (.smbi 0x00) { vec with df := true } (fun t => (t.d, t.df)) = some (0x00, true) := by decide

theorem test_br_page : after (.br 0x05) (vec.setReg 3 0x01FF) (fun t => (t.pc, t.cycles)) = some (0x0205, 102) := by
  decide
theorem test_br_page_end : after (.br 0x05) (vec.setReg 3 0x01FE) (fun t => t.pc) = some 0x0105 := by decide
theorem test_bz : after (.bz 0x44) vec (fun t => t.pc) = some 0x0144 := by decide
theorem test_bz_not_taken : after (.bz 0x05) { vec.setReg 3 0x01FE with d := 0x01 } (fun t => t.pc) = some 0x0200 := by
  decide
theorem test_bnz : after (.bnz 0x44) { vec with d := 0x01 } (fun t => t.pc) = some 0x0144 := by decide
theorem test_bdf : after (.bdf 0x44) { vec with df := true } (fun t => t.pc) = some 0x0144 := by decide
theorem test_bnf : after (.bnf 0x44) { vec with df := true } (fun t => t.pc) = some 0x0102 := by decide
theorem test_bq : after (.bq 0x44) { vec with q := true } (fun t => t.pc) = some 0x0144 := by decide
theorem test_bnq : after (.bnq 0x44) { vec with q := true } (fun t => t.pc) = some 0x0102 := by decide
theorem test_nbr_unread : after (.nbr 0x44) (vec.setReg 3 0x0FFF) (fun t => (t.pc, t.fault)) = some (0x1001, none) := by
  decide
theorem test_b1_in_window : after (.b1 0x44) { vec with cycles := 1063 } (fun t => (t.pc, t.cycles)) =
    some (0x0144, 1065) := by decide
theorem test_b1_before_window : after (.b1 0x44) { vec with cycles := 1062 } (fun t => (t.pc, t.cycles)) =
    some (0x0102, 1064) := by decide
theorem test_bn1 : after (.bn1 0x44) { vec with cycles := 1063 } (fun t => t.pc) = some 0x0102 := by decide
theorem test_b2 : after (.b2 0x44) vec (fun t => t.pc) = some 0x0102 := by decide
theorem test_bn2 : after (.bn2 0x44) vec (fun t => t.pc) = some 0x0144 := by decide
theorem test_b4 : after (.b4 0x44) vec (fun t => t.pc) = some 0x0102 := by decide
theorem test_bn4 : after (.bn4 0x44) vec (fun t => t.pc) = some 0x0144 := by decide

/-- The host's answer for the key of the latch decides, in the execute cycle 101. -/
theorem test_b3_key (key : Bool) (h : Config.isKeyDown 0 101 0xC = key) :
    after (.b3 0x44) { vec with keyLatch := 0xC } (fun t => t.pc) = some (if key then 0x0144 else 0x0102) := by
  have e : exec (.b3 0x44) { vec with keyLatch := 0xC } = .next (countCycles (if Config.isKeyDown 0 101 0xC then
      (fetched 0x36 { vec with keyLatch := 0xC }).tookDraw.setPc 0x0144
    else (fetched 0x36 { vec with keyLatch := 0xC }).tookDraw.setPc 0x0102)) := rfl
  rw [after, e, h]
  clear h e
  revert key
  decide
theorem test_bn3_key (key : Bool) (h : Config.isKeyDown 0 101 0xC = key) :
    after (.bn3 0x44) { vec with keyLatch := 0xC } (fun t => t.pc) = some (if key then 0x0102 else 0x0144) := by
  have e : exec (.bn3 0x44) { vec with keyLatch := 0xC } = .next (countCycles (if !Config.isKeyDown 0 101 0xC then
      (fetched 0x3E { vec with keyLatch := 0xC }).tookDraw.setPc 0x0144
    else (fetched 0x3E { vec with keyLatch := 0xC }).tookDraw.setPc 0x0102)) := rfl
  rw [after, e, h]
  clear h e
  revert key
  decide

theorem test_lbr : after (.lbr 0x0ABC) vec (fun t => (t.pc, t.cycles)) = some (0x0ABC, 103) := by decide
theorem test_lbr_no_window : after (.lbr 0x2000) vec (fun t => (t.pc, t.fault)) = some (0x2000, none) := by decide
theorem test_lbz : after (.lbz 0x0ABC) { vec with d := 0x01 } (fun t => (t.pc, t.cycles)) = some (0x0103, 103) := by
  decide
theorem test_lbnz : after (.lbnz 0x0ABC) { vec with d := 0x01 } (fun t => t.pc) = some 0x0ABC := by decide
theorem test_lbdf : after (.lbdf 0x0ABC) { vec with df := true } (fun t => t.pc) = some 0x0ABC := by decide
theorem test_lbnf : after (.lbnf 0x0ABC) { vec with df := true } (fun t => t.pc) = some 0x0103 := by decide
theorem test_lbq : after (.lbq 0x0ABC) vec (fun t => t.pc) = some 0x0103 := by decide
theorem test_lbnq : after (.lbnq 0x0ABC) vec (fun t => t.pc) = some 0x0ABC := by decide
theorem test_nop : after .nop vec (fun t => (t.pc, t.cycles)) = some (0x0101, 103) := by decide
theorem test_lskp_unread : after .lskp (vec.setReg 3 0x0FFE) (fun t => (t.pc, t.fault)) = some (0x1001, none) := by
  decide
theorem test_lsnq : after .lsnq vec (fun t => t.pc) = some 0x0103 := by decide
theorem test_lsq : after .lsq vec (fun t => t.pc) = some 0x0101 := by decide
theorem test_lsnz : after .lsnz vec (fun t => t.pc) = some 0x0101 := by decide
theorem test_lsz : after .lsz vec (fun t => t.pc) = some 0x0103 := by decide
theorem test_lsnf : after .lsnf vec (fun t => t.pc) = some 0x0103 := by decide
theorem test_lsdf : after .lsdf vec (fun t => t.pc) = some 0x0101 := by decide
theorem test_lsie : after .lsie vec (fun t => t.pc) = some 0x0103 := by decide
theorem test_lsie_masked : after .lsie { vec with ie := false } (fun t => t.pc) = some 0x0101 := by decide

theorem test_idl : after .idl vec (fun t => (t.idle, t.pc, t.cycles)) = some (true, 0x0101, 102) := by decide
theorem test_sep : after (.sep 4) (vec.setReg 4 0x001B) (fun t => (t.p, t.reg 3, t.pc)) = some (4, 0x0101, 0x001B) := by
  decide
theorem test_sex : after (.sex 5) vec (fun t => (t.x, t.pc)) = some (5, 0x0101) := by decide
theorem test_seq : after .seq vec (fun t => (t.q, t.events)) = some (true, [.qOutput 101 true]) := by decide
theorem test_req : after .req { vec with q := true } (fun t => (t.q, t.events)) = some (false, [.qOutput 101 false]) := by decide
theorem test_sav : after .sav { vec.setReg 2 0x0ECE with t := 0x23 } (fun t => (t.mem, t.reg 2)) =
    some ([(0xECE, 0x23)], 0x0ECE) := by decide
theorem test_mark : after .mark { vec.setReg 2 0x0ECF with x := 5 } (fun t => (t.t, t.mem, t.x, t.p, t.reg 2)) =
    some (0x53, [(0xECF, 0x53)], 3, 3, 0x0ECE) := by decide
theorem test_mark_fault : after .mark { vec.setReg 2 0x1000 with x := 5 } (fun t => (t.fault, t.t, t.x, t.reg 2, t.pc)) =
    some (some (.hardwareFault .write 0x1000), 0x00, 5, 0x1000, 0x0100) := by decide
theorem test_ret : after .ret { (vecM 0xECE 0x23).setReg 2 0x0ECE with ie := false }
    (fun t => (t.x, t.p, t.ie, t.reg 2)) = some (2, 3, true, 0x0ECF) := by decide
theorem test_ret_inline : after .ret { vecM 0x101 0x45 with x := 3, ie := false }
    (fun t => (t.x, t.p, t.ie, t.reg 3)) = some (4, 5, true, 0x0102) := by decide
theorem test_dis : after .dis ((vecM 0xECE 0x23).setReg 2 0x0ECE) (fun t => (t.x, t.p, t.ie, t.reg 2)) =
    some (2, 3, false, 0x0ECF) := by decide

theorem test_out2 : after (.out 2) ((vecM 0xECF 0x0C).setReg 2 0x0ECF) (fun t => (t.events, t.keyLatch, t.reg 2)) =
    some ([.out 101 2 0x0C], 0xC, 0x0ED0) := by decide
theorem test_out1 : after (.out 1) { vecM 0xE80 0x00 with displayEnabled := true }
    (fun t => (t.displayEnabled, t.reg 2)) = some (false, 0x0E81) := by decide
theorem test_inp1 : after (.inp 1) vec (fun t => (t.displayEnabled, t.events, t.reg 2, t.pc)) =
    some (true, [.inp 101 1], 0x0E80, 0x0101) := by decide
theorem test_inp1_fault : after (.inp 1) (vec.setReg 2 0x1000) (fun t => (t.fault, t.displayEnabled, t.draws, t.pc)) =
    some (some (.hardwareFault .write 0x1000), false, 0, 0x0100) := by decide
theorem test_reserved : after .reserved vec (fun t => (t.fault, t.pc, t.cycles)) =
    some (some (.invalidOpcode 0x0068), 0x0100, 100) := by decide

/-! ## CHIP-8 handlers -/

/-- The start state of program P7. -/
def vec8 : State :=
  { State.reset with
    cfg := { vipConfig with engine := .fastPath }, phase := .ready, execMode := .running, frameLeft := some 9, pad := 0,
    v := #v[0, 0x81, 0x02, 0, 0, 0, 0, 0, 0, 0, 0, 0, 0, 0, 0, 0x55] }

theorem test_c8_or : after (.c8Or 1 2) vec8 (fun t => (t.vreg 1, t.vreg 15, t.pc8, t.cycles8)) =
    some (0x83, 0x00, 0x202, 1) := by decide
theorem test_c8_or_quirk_clear :
    after (.c8Or 1 2) { vec8 with cfg := { vec8.cfg with vfResetOnLogic := false } } (fun t => (t.vreg 1, t.vreg 15)) =
    some (0x83, 0x55) := by decide
theorem test_c8_and : after (.c8And 1 2) (vec8.setV 2 0x83) (fun t => t.vreg 1) = some 0x81 := by decide
theorem test_c8_xor : after (.c8Xor 1 2) (vec8.setV 2 0x83) (fun t => t.vreg 1) = some 0x02 := by decide
theorem test_c8_shr_vy : after (.c8ShiftRight 0 1) vec8 (fun t => (t.vreg 0, t.vreg 15)) = some (0x40, 1) := by decide
theorem test_c8_shr_flag_last : after (.c8ShiftRight 15 1) vec8 (fun t => t.vreg 15) = some 1 := by decide
theorem test_c8_shl_vx :
    after (.c8ShiftLeft 0 1) { vec8.setV 0 0x81 with cfg := { vec8.cfg with shiftSource := .vx } }
      (fun t => (t.vreg 0, t.vreg 15)) = some (0x02, 1) := by decide
theorem test_c8_store_wraps :
    after (.c8Store 3) { vec8 with i8 := 0xFFE, v := #v[0xA, 0xB, 0xC, 0xD, 0, 0, 0, 0, 0, 0, 0, 0, 0, 0, 0, 0] }
      (fun t => (t.i8, t.pad)) = some (0x002, 0xC) := by decide
theorem test_c8_store : after (.c8Store 1) { vec8 with i8 := 0x300 } (fun t => (t.mem, t.i8)) =
    some ([(0x301, 0x81)], 0x302) := by decide
theorem test_c8_load : after (.c8Load 1) { vec8 with i8 := 0x300, mem := [(0x300, 0x11), (0x301, 0x22), (0x302, 0x33)] }
    (fun t => (t.vreg 0, t.vreg 1, t.vreg 2, t.i8)) = some (0x11, 0x22, 0x02, 0x302) := by decide
theorem test_c8_load_unchanged :
    after (.c8Load 0) { vec8 with i8 := 0x300, cfg := { vec8.cfg with loadStoreI := .unchanged } } (fun t => t.i8) =
    some 0x300 := by decide
theorem test_c8_call : after (.c8Call 0xABC) vec8 (fun t => (t.stackAt 0, t.sp8, t.pc8)) = some (0x202, 1, 0xABC) := by
  decide
theorem test_c8_call_overflow : after (.c8Call 0xABC) { vec8 with sp8 := 16, pc8 := 0x300 }
    (fun t => (t.fault, t.pc8, t.sp8, t.cycles8, t.cpuState)) = some (some .stackOverflow, 0x300, 16, 0, .error) := by
  decide
theorem test_c8_return : after .c8Return ({ vec8 with sp8 := 1 }.setStack 0 0x202) (fun t => (t.pc8, t.sp8)) =
    some (0x202, 0) := by decide
theorem test_c8_return_underflow : after .c8Return { vec8 with pc8 := 0x300 } (fun t => (t.fault, t.pc8)) =
    some (some .stackUnderflow, 0x300) := by decide
theorem test_c8_unmapped : after (.c8Unmapped 0xFFFF) { vec8 with pc8 := 0x204, cycles8 := 4 }
    (fun t => (t.fault, t.pc8, t.cycles8, t.execMode)) =
    some (some (.invalidOpcode 0xFFFF), 0x204, 4, .paused) := by decide

/-- Without a key the counter goes back and the CPU waits; with key 7 `V[1]` takes it. -/
theorem test_c8_key_wait_none (h : Config.getKeyPressed 0 = none) :
    after (.c8KeyWait 1) vec8 (fun t => (t.pc8, t.cpuState, t.cycles8)) = some (0x200, .waiting, 1) := by
  have e : exec (.c8KeyWait 1) vec8 = .next (keyWait 1 (Config.getKeyPressed 0) (fetched8 vec8).tookDraw) := rfl
  rw [after, e, h]; decide
theorem test_c8_key_wait_key (h : Config.getKeyPressed 0 = some 7) :
    after (.c8KeyWait 1) vec8 (fun t => (t.vreg 1, t.cpuState, t.pc8)) = some (0x07, .normal, 0x202) := by
  have e : exec (.c8KeyWait 1) vec8 = .next (keyWait 1 (Config.getKeyPressed 0) (fetched8 vec8).tookDraw) := rfl
  rw [after, e, h]; decide

/-! ## The step, the CDP1861, requests, shadow, reset -/

theorem test_step_runs_ram : got (step { vecM 0x300 0xD4 with r := vec.r.set 3 0x0300 }) (fun t => t.p) = some 4 := by
  decide
theorem test_video_table :
    [1091, 1092, 1119, 1120, 4760].map (intReq { vec with displayEnabled := true }) = [false, true, true, false, true] ∧
    [1120, 1121, 1128, 1129, 2906, 2912].map (dmaOutReq { vec with displayEnabled := true }) =
      [false, true, true, false, true, false] ∧
    [1063, 1064, 1120, 2855, 2856, 2912].map efx = [false, true, false, false, true, false] := by decide
theorem test_interrupt :
    got (coreStep { vec with cycles := 1092, displayEnabled := true, x := 3 }) (fun t => (t.t, t.p, t.x, t.ie, t.cycles)) =
    some (0x33, 1, 2, false, 1093) := by decide
theorem test_dma_out :
    got (coreStep { (vecM 0xF00 0xA0).setReg 0 0x0F00 with cycles := 1121, displayEnabled := true, idle := true })
      (fun t => (t.events, t.reg 0, t.cycles, t.idle)) = some ([.dmaOut 1121 0x0F00 0xA0], 0x0F01, 1122, false) := by
  decide
theorem test_idle : got (coreStep { vec with cycles := 500, displayEnabled := true, idle := true })
    (fun t => (t.cycles, t.idle)) = some (501, true) := by decide

/-- The state of the shadow row of section 2.14. -/
def vecShadow : State :=
  { vec with
    r := #v[0, 0, 0x0ECB, 0x0100, 0, 0x0204, 0, 0, 0x1E05, 0, 0x0300, 0, 0, 0, 0, 0],
    mem := [(0xECB, 0x03), (0xECC, 0x4A), (0xECD, 0x02), (0xECE, 0x02), (0xEF1, 0x01), (0xEFF, 0x0F)] }

theorem test_shadow :
    (shadowRefresh vecShadow).vreg 15 = 0x0F ∧ (shadowRefresh vecShadow).pc8 = 0x204 ∧
    (shadowRefresh vecShadow).i8 = 0x300 ∧ (shadowRefresh vecShadow).dt = 0x1E ∧ (shadowRefresh vecShadow).st = 0x05 ∧
    (shadowRefresh vecShadow).sp8 = 2 ∧ (shadowRefresh vecShadow).stackAt 0 = 0x202 ∧
    (shadowRefresh vecShadow).stackAt 1 = 0x34A := by decide
theorem test_reentry :
    got (step { vec with p := 4, mem := [(0x2A2, 0xD3)], cycles8 := 7,
                         r := #v[0, 0, 0x0E80, 0x001B, 0x02A2, 0, 0, 0, 0, 0, 0, 0, 0, 0, 0, 0] })
      (fun t => (t.p, t.cycles8, t.inTick)) = some (3, 8, false) := by decide
theorem test_timer_tick : (timerTick { vec8 with dt := 0x01, st := 0x00, frames8 := 9 }).dt = 0x00 ∧
    (timerTick { vec8 with dt := 0x01, st := 0x00, frames8 := 9 }).st = 0x00 ∧
    (timerTick { vec8 with dt := 0x01, st := 0x00, frames8 := 9 }).frames8 = 10 := by decide
theorem test_step_mode : got (step { vec8 with execMode := .step, mem := [(0x200, 0x22), (0x201, 0x06)] })
    (fun t => (t.pc8, t.execMode)) = some (0x206, .paused) := by decide
theorem test_step_out : got (step ({ vec8 with execMode := .stepOut, sp8 := 1, mem := [(0x201, 0xEE)] }.setStack 0 0x202))
    (fun t => (t.pc8, t.execMode)) = some (0x202, .paused) := by decide
/-- R242: a pause inside a frame drops the rest of it, and its tick fires by the parameter. -/
theorem test_pause_in_frame :
    got (step { vec8 with execMode := .step, dt := 5, mem := [(0x200, 0x22), (0x201, 0x06)] })
      (fun t => (t.frameLeft, t.dt)) = some (none, 5) ∧
    (applyAction (.setExecMode .paused) { vec8 with cfg := { vec8.cfg with tickOnPause := true }, dt := 5 }).dt = 4 := by
  decide
/-- R49: one entry per address, found by address and by index; R253: not on a faulted machine. -/
theorem test_breakpoint_map :
    breakpointAt 1 (setBreakpoint ⟨0x204, [2]⟩ (setBreakpoint ⟨0x202, []⟩ (setBreakpoint ⟨0x204, [1]⟩ vec8))) =
      some ⟨0x204, [2]⟩ ∧
    findBreakpoint 0x204 (removeBreakpoint 0x204 (setBreakpoint ⟨0x204, [1]⟩ vec8)) = none ∧
    (setBreakpoint ⟨0x204, [1]⟩ (enterFault .stackOverflow vec8)).breakpoints = [] := by decide
/-- R307: the counters restart on a fault too. -/
theorem test_fast_forward_fault :
    got (step { vec with phase := .fastForward, cfg := { vec.cfg with fastForward := .run }, cycles8 := 7, frames8 := 3,
                         mem := [(0x100, 0x68)] })
      (fun t => (t.cycles8, t.frames8, t.fault)) = some (0, 0, some (.invalidOpcode 0x0068)) := by decide
/-- R239: an entry may read any register of the CDP1802; `R[X]`, and the page of it. -/
theorem test_shadow_expr : shadowValue vec (.regAt (.cpu .x)) = (vec.reg vec.x).toNat ∧
    shadowValue { vec with d := 0x5A } (.cpu .d) = 0x5A := by decide
/-- R307, R68: the ready state keeps the loaded program. -/
theorem test_ready_keeps_program :
    (readyState (applyAction (.loadAndReset [0xA2, 0x1E]) vec)).mem = [(0x200, 0xA2), (0x201, 0x1E)] := by decide
/-- R303: without the boot latch. -/
theorem test_reset_no_latch :
    ((hostReset { (vec.setReg 1 0x1234) with cfg := { vec.cfg with hasBootLatch := false } }).reg 1,
      (hostReset { vec with cfg := { vec.cfg with hasBootLatch := false } }).bootLatch) = (0x0F34, false) := by decide
theorem test_boot_latch : effAddr { vec with bootLatch := true } 0x0002 = 0x8002 := by decide
theorem test_families_disjoint :
    sourceFamilies.Pairwise (fun a b => (a.pattern ^^^ b.pattern) &&& a.mask &&& b.mask ≠ 0) := by decide
theorem test_on_precondition : onCall [] ⟨0xF000, 0x8006, .or⟩ = none := by decide
theorem test_fetch_word_1802 : got (step (State.reset.withFetchWord 8 0x7B)) (fun t => t.q) = some true := by decide
theorem test_fetch_word_chip8 : got (step (State.reset.withFetchWord 16 0x2ABC)) (fun t => (t.pc8, t.sp8)) =
    some (0xABC, 1) := by decide

/-! ## Witnesses: for each statement with hypotheses, a state and operands that meet them, clause by clause -/

/-- The code at 0x300 with `R[2]` at 0xE80, where the listed bytes are. -/
def wit : State :=
  { vec with
    r := #v[0, 0x8200, 0x0E80, 0x0300, 0x81FF, 0x0FFF, 0x1000, 0x8000, 0, 0, 0, 0, 0, 0, 0, 0],
    mem := [(0x300, 0x7B), (0x301, 0x44), (0x302, 0xBC), (0xE80, 0x23), (0xFFF, 0x99)] }

/-- The same where writes into ROM are ignored. -/
def witIgnore : State := { wit with cfg := { wit.cfg with romWrite := .ignore } }

/-- The same with the last RAM byte as the opcode, so that every operand byte lies in no window. -/
def witEdge : State := wit.setReg 3 0x0FFF

theorem witness_EncodeThenDecodeGivesTheInstruction :
    (Instr.lbr 0x0ABC).wf = true ∧ (Instr.ldn 15).wf = true ∧ (Instr.c8Draw 1 2 3).wf = true := by decide

theorem witness_DecodedBytesAreTheEncoding :
    decode .hardware [0xC0#8, 0x0A#8, 0xBC#8, 0x00#8] = .ok (.lbr 0x0ABC, [0x00#8]) ∧
    decode .fastPath [0xF3#8, 0x55#8] = .ok (.c8Store 3, []) := ⟨rfl, rfl⟩

theorem witness_DecodeTakesLengthBytes :
    decode1802 (0xC0#8 :: [0x0A#8, 0xBC#8]) = .ok (.lbr 0x0ABC, []) ∧ decode1802 (0xC4#8 :: []) = .ok (.nop, []) ∧
    decode1802 (0x7C#8 :: [0x01#8]) = .ok (.adci 1, []) := ⟨rfl, rfl, rfl⟩

theorem witness_OnCallWritesTwoToTheFreeBitsSlots :
    (0x8006#16 &&& ~~~0xF00F#16 = 0) ∧ (0#16 &&& ~~~0#16 = 0) ∧ (0x00EE#16 &&& ~~~0xFFFF#16 = 0) := by decide

theorem witness_DisjointFamiliesTest :
    (0x8006#16 &&& ~~~0xF00F#16 = 0) ∧ (0x800E#16 &&& ~~~0xF00F#16 = 0) ∧ (0x0000#16 &&& ~~~0xF000#16 = 0) ∧
    (0x00EE#16 &&& ~~~0xFFFF#16 = 0) := by decide

theorem witness_TableBuiltCallByCall : (0x00EE#16 &&& ~~~0xFFFF#16 = 0) ∧ (0x8006#16 &&& ~~~0xF000#16 ≠ 0) := by decide

theorem witness_ReadWindows :
    (0x0FFF#16 = if wit.bootLatch then 0x0FFF#16 ||| 0x8000#16 else 0x0FFF#16) ∧ (0x0FFF#16).toNat < 0x1000 ∧
    (0x8002#16 = if { wit with bootLatch := true }.bootLatch then 0x0002#16 ||| 0x8000#16 else 0x0002#16) ∧
    (0x8000 ≤ (0x81FF#16).toNat ∧ (0x81FF#16).toNat < 0x8200) ∧
    (0x1000 ≤ (0x7FFF#16).toNat ∧ (0x7FFF#16).toNat < 0x8000) ∧ 0x8200 ≤ (0x8200#16).toNat := by decide

theorem witness_WriteWindows :
    wit.cfg.romWrite = .fault ∧ witIgnore.cfg.romWrite = .ignore ∧ effAddr wit 0x8000 = 0x8000 ∧
    effAddr witIgnore 0x81FF = 0x81FF ∧ effAddr wit 0x0FFF = 0x0FFF ∧ effAddr wit 0x1000 = 0x1000 := by decide

theorem witness_LoadsReadAByte :
    memRead wit (stepped wit 1 5) = .ok 0x99 ∧ memRead wit (stepped wit 1 wit.x) = .ok 0x23 ∧
    memRead wit (wit.pc + 1) = .ok 0x44 ∧ memRead wit (stepped wit 1 4) = .ok (Config.romMonitor 0x1FF) :=
  ⟨rfl, rfl, rfl, rfl⟩

theorem witness_StoresWriteOneByte :
    Writable wit (stepped wit 1 5) ∧ Writable wit (stepped wit 1 wit.x) ∧ Writable witIgnore (stepped witIgnore 1 7) := by
  unfold Writable; decide

theorem witness_DataAccessFaultCommitsNothing :
    memRead wit (stepped wit 1 6) = .error (.hardwareFault .read 0x1000) ∧
    memRead { wit with x := 1 } (stepped { wit with x := 1 } 1 1) = .error (.hardwareFault .read 0x8200) ∧
    memRead witEdge (witEdge.pc + 1) = .error (.hardwareFault .read 0x1000) ∧
    ¬ Writable wit (stepped wit 1 4) ∧ ¬ Writable { wit with x := 6 } (stepped { wit with x := 6 } 1 6) ∧
    ¬ Writable (wit.setReg 2 0x1000) (stepped (wit.setReg 2 0x1000) 1 2) := by
  refine ⟨rfl, rfl, rfl, ?_, ?_, ?_⟩ <;> unfold Writable <;> decide

theorem witness_LogicOnD : memRead wit (stepped wit 1 wit.x) = .ok 0x23 ∧ memRead wit (wit.pc + 1) = .ok 0x44 :=
  ⟨rfl, rfl⟩

theorem witness_AdditionsWriteSumAndCarry :
    memRead wit (stepped wit 1 wit.x) = .ok 0x23 ∧ memRead wit (wit.pc + 1) = .ok 0x44 := ⟨rfl, rfl⟩

theorem witness_SubtractionsWriteDifferenceAndBorrow :
    memRead wit (stepped wit 1 wit.x) = .ok 0x23 ∧ memRead wit (wit.pc + 1) = .ok 0x44 := ⟨rfl, rfl⟩

/-- Every row of the tables of branches, with each outcome of its operand read: taken BR, not taken NBR. -/
theorem witness_ShortBranchesGoWhereTheySay :
    (shortBranches wit).length = 16 ∧ memRead wit (wit.pc + 1) = .ok 0x44 ∧
    ((shortBranches wit)[0]'(by decide)).cond = true ∧ ((shortBranches wit)[8]'(by decide)).cond = false ∧
    memRead witEdge (witEdge.pc + 1) = .error (.hardwareFault .read 0x1000) := ⟨rfl, rfl, rfl, rfl, rfl⟩

theorem witness_LongBranchesGoWhereTheySay :
    (longBranches wit).length = 7 ∧ memRead wit (wit.pc + 1) = .ok 0x44 ∧ memRead wit (wit.pc + 2) = .ok 0xBC ∧
    ((longBranches wit)[0]'(by decide)).cond = true ∧ ((longBranches wit)[1]'(by decide)).cond = false ∧
    memRead witEdge (witEdge.pc + 1) = .error (.hardwareFault .read 0x1000) ∧
    memRead (wit.setReg 3 0x0FFE) ((wit.setReg 3 0x0FFE).pc + 1) = .ok 0x99 ∧
    memRead (wit.setReg 3 0x0FFE) ((wit.setReg 3 0x0FFE).pc + 2) = .error (.hardwareFault .read 0x1000) :=
  ⟨rfl, rfl, rfl, rfl, rfl, rfl, rfl, rfl⟩

theorem witness_LongSkipsStepOverTwoBytes :
    (longSkips wit).length = 9 ∧ ((longSkips wit)[0]'(by decide)).cond = true ∧
    ((longSkips wit)[8]'(by decide)).cond = false := ⟨rfl, rfl, rfl⟩

theorem witness_SaveAndMark : Writable wit (stepped wit 1 wit.x) ∧ Writable wit (stepped wit 1 2) := by
  unfold Writable; decide

theorem witness_ReturnRestoresXAndP : memRead wit (stepped wit 1 wit.x) = .ok 0x23 := rfl

theorem witness_OutputStrobes : memRead wit (stepped wit 1 wit.x) = .ok 0x23 := rfl

theorem witness_InputStrobes : Writable wit (stepped wit 1 wit.x) := by unfold Writable; decide

theorem witness_Chip8Shifts :
    vec8.cfg.shiftSource = .vy ∧ { vec8 with cfg := { vec8.cfg with shiftSource := .vx } }.cfg.shiftSource = .vx := by
  decide

theorem witness_StoreThenLoadRestoresRegisters :
    ∃ t u, exec (.c8Store 2) vec8 = .next t ∧
      exec (.c8Load 2) { t with v := Vector.replicate 16 0, i8 := vec8.i8 } = .next u := ⟨_, _, rfl, rfl⟩

/-- The last free entry and the full stack; the cyclic stack at its end. -/
theorem witness_CallPushesReturnAddress :
    ({ vec8 with sp8 := 15 }.cfg.stackPolicy = .error ∧ { vec8 with sp8 := 15 }.sp8 < 16) ∧
    ({ vec8 with sp8 := 16 }.cfg.stackPolicy = .error ∧ { vec8 with sp8 := 16 }.sp8 = 16) ∧
    { vec8 with sp8 := 15, cfg := { vec8.cfg with stackPolicy := .cyclic } }.cfg.stackPolicy = .cyclic := by decide

theorem witness_ReturnPopsReturnAddress :
    (vec8.cfg.stackPolicy = .error ∧ 1 ≤ { vec8 with sp8 := 1 }.sp8 ∧ { vec8 with sp8 := 16 }.sp8 ≤ 16) ∧
    (vec8.cfg.stackPolicy = .error ∧ vec8.sp8 = 0) ∧
    ({ vec8 with sp8 := 15, cfg := { vec8.cfg with stackPolicy := .cyclic } }.cfg.stackPolicy = .cyclic ∧
      { vec8 with sp8 := 15 }.sp8 < 16) := by decide

theorem witness_DrawIsAParameterHandler :
    (∃ e, e = Config.handler .draw vec8.draws (0xD#4 ++ 1#4 ++ 2#4 ++ 5#4) (handlerView (fetched8 vec8))) ∧
    ∃ e, e = Config.handler (.param 3) vec8.draws 0xF10A (handlerView (fetched8 vec8)) := ⟨⟨_, rfl⟩, _, rfl⟩

theorem witness_BackendStepRunsTheDecodedInstruction :
    ∃ t rest, takeAction wit = none ∧ wit.fault = none ∧ wit.cfg.engine = .hardware ∧ held wit = false ∧
      (wit.phase = .ready ∨ wit.cfg.fastForward = .run) ∧ nextCycle wit = .instruction ∧ memRead wit wit.pc = .ok 0x7B ∧
      decode1802 [0x7B, byteAhead wit 1, byteAhead wit 2] = .ok (.seq, rest) ∧ exec .seq wit = .next t :=
  ⟨_, _, rfl, rfl, rfl, by decide, .inl rfl, by decide, rfl, rfl, rfl⟩

/-- `00EE` at 0x200 with one entry on the stack. -/
def wit8 : State := { vec8 with sp8 := 1, mem := [(0x201, 0xEE)] }

/-- The same machine with a table that holds a parameter handler for every opcode. -/
def wit8Param : State := { wit8 with cfg := { wit8.cfg with table := [⟨0, 0, .param 3⟩] } }

theorem witness_FastPathStepRunsTheDecodedOpcode :
    (∃ t rest, takeAction wit8 = none ∧ wit8.fault = none ∧ wit8.cfg.engine = .fastPath ∧ held wit8 = false ∧
      wit8.cfg.table = sourceFamilies ∧ wit8.frameLeft = some (8 + 1) ∧
      decodeChip8 [read8 wit8 (wit8.pc8.toNat % wit8.cfg.memSize), read8 wit8 (wit8.pc8.toNat % wit8.cfg.memSize + 1)] =
        .ok (.c8Return, rest) ∧
      exec .c8Return wit8 = .next t) ∧
    (takeAction wit8Param = none ∧ held wit8Param = false ∧ handlerAt wit8Param.cfg.table 0x00EE = .param 3 ∧
      ∃ t, runHandler (.param 3) 0x00EE wit8Param = .next t) ∧
    held { wit8 with frameLeft := some 0 } = false ∧ held { wit8 with frameLeft := none } = false ∧
    (∃ k, { wit8 with cfg := { wit8.cfg with ipf := some ⟨1, by decide⟩ } }.cfg.ipf = some k) ∧
    { wit8 with execMode := .paused }.fault = none :=
  ⟨⟨_, _, rfl, rfl, rfl, by decide, rfl, rfl, rfl, rfl⟩, ⟨rfl, by decide, by decide, _, rfl⟩, by decide, by decide,
    ⟨_, rfl⟩, rfl⟩

/-- The boundary cycles of the four choices. -/
theorem witness_RequestPriority :
    (({ wit with cycles := 1121, displayEnabled := true }.cycles % 3668 = 1121) ∧
      nextCycle { wit with cycles := 1121, displayEnabled := true } = .dmaOut) ∧
    nextCycle { wit with cycles := 2906, displayEnabled := true } = .dmaOut ∧
    nextCycle { wit with cycles := 1092, displayEnabled := true } = .interrupt ∧
    nextCycle { wit with cycles := 1119, displayEnabled := true } = .interrupt ∧
    nextCycle { wit with cycles := 1120, displayEnabled := true, idle := true } = .idle ∧
    nextCycle { wit with cycles := 1119, displayEnabled := true, ie := false } = .instruction := by decide

theorem witness_InterruptEntry : nextCycle { wit with cycles := 1119, displayEnabled := true } = .interrupt := by decide

theorem witness_DmaOutCycleEffect :
    nextCycle ({ wit with cycles := 1121, displayEnabled := true }.setReg 0 0x0FFF) = .dmaOut ∧
    memRead (wit.setReg 0 0x0FFF) ((wit.setReg 0 0x0FFF).reg 0) = .ok 0x99 ∧
    nextCycle ({ wit with cycles := 1121, displayEnabled := true }.setReg 0 0x1000) = .dmaOut ∧
    memRead (wit.setReg 0 0x1000) ((wit.setReg 0 0x1000).reg 0) = .error (.hardwareFault .read 0x1000) :=
  ⟨by decide, rfl, by decide, rfl⟩

theorem witness_OpcodeFetchFault :
    nextCycle (wit.setReg 3 0x2000) = .instruction ∧
    memRead (wit.setReg 3 0x2000) (wit.setReg 3 0x2000).pc = .error (.hardwareFault .read 0x2000) := ⟨by decide, rfl⟩

theorem witness_ReentryTest : ∃ t, coreStep wit = .next t := ⟨_, rfl⟩

theorem witness_ShadowRefreshUnderTheDefaultMap :
    vecShadow.cfg.shadow = defaultShadow ∧ 0x0E00 = (vecShadow.reg 2).toNat / 256 * 256 ∧ 0x0E00 < 0x1000 ∧
    (vecShadow.reg 2).toNat ≤ 0x0E00 + 0xCF ∧ (vecShadow.setReg 2 0x0FCF).reg 2 = 0x0FCF := by decide

/-- The state after the fault of an unmapped opcode. -/
def witFaulted : State := enterFault (.invalidOpcode 0xFFFF) vec8

theorem witness_FaultedMachineIsFinal :
    witFaulted.fault = some (.invalidOpcode 0xFFFF) ∧ witFaulted.cpuState = .error ∧ takeAction witFaulted = none :=
  ⟨rfl, rfl, rfl⟩

theorem witness_FaultUndoesTheInstruction :
    ∃ t, wit.fault = none ∧ exec .reserved wit = .next t ∧ t.fault = some (.invalidOpcode 0x0068) := ⟨_, rfl, rfl, rfl⟩

theorem witness_PausedMachineIsFrozen :
    takeAction { wit with execMode := .paused } = none ∧ { wit with execMode := .paused }.fault = none ∧
    { wit with execMode := .paused }.execMode = .paused ∧ { wit with execMode := .paused }.phase = .ready :=
  ⟨rfl, rfl, rfl, rfl⟩

theorem witness_ExecutionModeMachine : wit.cpuState ≠ .error := by decide

theorem witness_TimerTickCountsDown : wit.fault = none := rfl

theorem witness_BackendCountsFrames :
    ∃ t, coreStep { wit with cycles := 3666 } = .next t ∧ { wit with cycles := 3666 }.fault = none ∧
      { wit with cycles := 3666 }.cfg.engine = .hardware := ⟨_, rfl, rfl, rfl⟩

/-- A machine whose fast-forward has come to a re-entry in all but its last instruction. -/
def witForward : State := { wit with phase := .fastForward, cfg := { wit.cfg with fastForward := .run } }

theorem witness_ResetValues :
    witFaulted.cfg.hasBootLatch = true ∧ { wit.cfg with hasBootLatch := false }.hasBootLatch = false ∧
    (takeAction State.reset = none ∧ State.reset.fault = none ∧ State.reset.cfg.engine = .hardware ∧
      State.reset.phase = .fastForward ∧ State.reset.cfg.fastForward = .postCondition) ∧
    ∃ t hit, takeAction witForward = none ∧ witForward.fault = none ∧ witForward.cfg.engine = .hardware ∧
      witForward.phase = .fastForward ∧ witForward.cfg.fastForward = .run ∧
      executeCdp1802 witForward = .next (t, hit) := ⟨rfl, rfl, ⟨rfl, rfl, rfl, rfl, rfl⟩, _, _, rfl, rfl, rfl, rfl, rfl, rfl⟩

theorem witness_LoadedProgramStandsAtLoadOffset : 0x200 ≤ 0x200 ∧ 0x200 ≤ 0x0FFF ∧ 0x200 ≤ 0x1000 := by decide

/-- Each kind of writer does change its bit. -/
theorem witness_OnlyTheNamedInstructionsWriteControlBits :
    after (.adi 0x00) { wit with df := true } (fun t => t.df) = some false ∧ after .seq wit (fun t => t.q) = some true ∧
    after .dis wit (fun t => (t.ie, t.p, t.x)) = some (false, 3, 2) ∧
    after .mark wit (fun t => (t.t, t.x)) = some (0x23, 3) ∧
    after (.out 2) wit (fun t => t.keyLatch) = some 3 ∧ after (.inp 1) wit (fun t => t.displayEnabled) = some true := by
  decide

theorem witness_InstructionsTakeTwoOrThreeCycles :
    ∃ t, Instr.nop.engine = .hardware ∧ wit.fault = none ∧ exec .nop wit = .next t := ⟨_, rfl, rfl, rfl⟩

theorem witness_ConfigurationNeverChanges : ∃ t, step wit8 = .next t := ⟨_, rfl⟩

/-- A good state of the fast path that takes a step. -/
theorem witness_EveryStepKeepsAGoodState :
    ∃ t, State.Good { vec8 with pad := Memory.unlisted 0 } ∧ step { vec8 with pad := Memory.unlisted 0 } = .next t := by
  refine ⟨_, ⟨?_, ⟨by decide, fun c h => nomatch h⟩, fun _ => rfl, ?_, fun _ => (by decide : 0 ≤ 16), fun _ => by decide, List.Pairwise.nil⟩, rfl⟩
  · unfold State.Coherent; decide
  · unfold State.WidthsGood Fits; decide

end Sys2Proof.Tests
end

section
/-! The scope (00_scope): every step answers. -/

namespace Sys2Proof.Slice0

open Sys2Proof.Machine

/-- Settles O49. Of the cases of a step (`step_cases`) only that of a fault record with no host call to take is not a next
state, and there the step answers the halt. Totality itself rests on `coreStep_next` and `fastStep_next`: every
instruction of either engine, an invalid opcode included, answers a next state. -/
theorem everyStepAnswers : Obligations.EveryStepAnswers := by
  intro s
  rcases step_cases s with ⟨_, -, hcall⟩ | ⟨-, f, hfault, hhalt⟩ | ⟨-, -, -, hheld⟩ |
      ⟨-, -, -, -, hbackend⟩ | ⟨-, -, -, -, hfast⟩
  · exact .inl ⟨_, hcall⟩
  · exact .inr ⟨f, hfault, hhalt⟩
  · exact .inl ⟨_, hheld⟩
  · rcases hbackend with ⟨-, hready⟩ | ⟨-, _, -, hcore⟩
    · exact .inl ⟨_, hready⟩
    · exact .inl ⟨_, hcore⟩
  · rcases hfast with ⟨-, hbegin⟩ | ⟨-, hend⟩ | ⟨_, _, -, -, htick⟩
    · exact .inl ⟨_, hbegin⟩
    · exact .inl ⟨_, hend⟩
    · exact .inl ⟨_, htick⟩

end Sys2Proof.Slice0
end

section
/-! The configuration: nothing a step calls writes it (10_state R48). -/

namespace Sys2Proof.Machine

theorem dmaOutCycle_cfg (s : State) : (dmaOutCycle s).cfg = s.cfg := by
  rcases dmaOutCycle_cases s with ⟨v, -, e⟩ | ⟨f, -, e⟩ <;> rw [e] <;> rfl

theorem coreStep_cfg {s t : State} (e : coreStep s = .next t) : t.cfg = s.cfg := by
  rcases coreStep_cases s with ⟨-, hdma⟩ | ⟨-, hint⟩ | ⟨-, hidle⟩ | ⟨-, ⟨op, u, -, hinstr, hframe⟩ | ⟨f, hfault⟩⟩
  · rw [hdma] at e; cases e; exact dmaOutCycle_cfg s
  · rw [hint] at e; cases e; rfl
  · rw [hidle] at e; cases e; rfl
  · rw [hinstr] at e; cases e; exact hframe.cfg
  · rw [hfault] at e; cases e; rfl

theorem readyState_cfg (s : State) : (readyState s).cfg = s.cfg := by
  obtain ⟨-, -, -, -, -, -, -, hcfg, -⟩ := readyState_post s
  exact hcfg

theorem atReentry_cfg (s : State) : (atReentry s).cfg = s.cfg := by
  simp only [atReentry, shadowRefresh, tookDraw_cfg]

theorem afterExecute_cfg (s t : State) (hit : Bool) : (afterExecute s t hit).cfg = t.cfg := by
  obtain ⟨_, _, _, _, _, e, -⟩ := afterExecute_eq s t hit
  rw [e]

theorem applyEffect_cfg (e : HandlerEffect) (s : State) : (applyEffect e s).cfg = s.cfg := by
  rw [applyEffect, writeAll8_eq]; rfl

theorem fastStep_cfg {s t : State} (e : fastStep s = .next t) : t.cfg = s.cfg := by
  rcases fastStep_cases s with ⟨u, hok, hframe⟩ | ⟨x, hparam⟩ | ⟨f, hfault⟩
  · rw [hok] at e; cases e; exact hframe.cfg
  · rw [hparam] at e; cases e; exact applyEffect_cfg x _
  · rw [hfault] at e; cases e; rfl

theorem afterFastStep_cfg (op : Word) (s : State) : (afterFastStep op s).cfg = s.cfg := by
  obtain ⟨_, e, -⟩ := afterFastStep_eq op s
  rw [e]

theorem afterTick8_cfg (k : Nat) (s : State) : (afterTick8 k s).cfg = s.cfg := by
  rcases afterTick8_eq k s with ⟨-, e⟩ | ⟨-, _, _, _, _, e⟩ <;> rw [e]

theorem beginFrame_cfg (s : State) : (beginFrame s).cfg = s.cfg := by
  obtain ⟨_, _, e⟩ := beginFrame_eq s
  rw [e]

theorem endFrame_cfg {s : State} (hf : s.fault = none) : (endFrame s).cfg = s.cfg := by
  obtain ⟨_, _, e⟩ := timerTick_eq s hf
  rw [endFrame, e]

theorem pauseFrame_cfg (s : State) : (pauseFrame s).cfg = s.cfg := by
  rcases pauseFrame_eq s with e | ⟨-, -, _, _, _, e⟩ <;> rw [e]

theorem hostReset_cfg (s : State) : (hostReset s).cfg = s.cfg := by
  obtain ⟨_, e⟩ := resetCpu_eq s
  rw [hostReset, e]; rfl

theorem setExecMode_cfg (m : ExecMode) (s : State) : (setExecMode m s).cfg = s.cfg := by
  obtain ⟨_, e⟩ := setExecMode_eq m s
  rw [e]
  split_ifs <;> rfl

theorem applyAction_cfg (a : HostAction) (s : State) : (applyAction a s).cfg = s.cfg := by
  cases a with
  | reset => exact hostReset_cfg s
  | loadAndReset image => exact hostReset_cfg { s with program := image }
  | setExecMode m => exact (pauseFrame_cfg _).trans (setExecMode_cfg m s)
  | setBreakpoint b => simp only [applyAction, setBreakpoint]; split_ifs <;> rfl
  | removeBreakpoint a => simp only [applyAction, removeBreakpoint]; split_ifs <;> rfl

/-- A host call that lands is the oldest of the inbox, which it leaves. -/
theorem takeAction_some {s t : State} (e : takeAction s = some t) :
    ∃ a rest, t = applyAction a { s with inbox := rest } := by
  unfold takeAction at e
  split at e
  · cases e
  · next a rest _ =>
    split_ifs at e
    exact ⟨a, rest, (Option.some.inj e).symm⟩

end Sys2Proof.Machine

namespace Sys2Proof.Slice0

open Sys2Proof.Machine

/-- Settles O58, by the cases of a step (`step_cases`): each function a step is made of keeps `cfg`. -/
theorem configurationNeverChanges : Obligations.ConfigurationNeverChanges := by
  intro s t e
  rcases step_cases s with ⟨s', hcall, hs⟩ | ⟨-, f, -, hs⟩ | ⟨-, -, -, hs⟩ | ⟨-, -, -, -, hbackend⟩ |
      ⟨-, hf, -, -, hfast⟩
  · rw [hs] at e; cases e
    obtain ⟨a, rest, rfl⟩ := takeAction_some hcall
    exact applyAction_cfg a { s with inbox := rest }
  · rw [hs] at e; cases e
  · rw [hs] at e; cases e; rfl
  · rcases hbackend with ⟨-, hs⟩ | ⟨-, u, hcore, hs⟩ <;> rw [hs] at e <;> cases e
    · exact readyState_cfg s
    · rw [afterExecute_cfg, ← coreStep_cfg hcore]
      split_ifs
      · exact atReentry_cfg u
      · rfl
  · rcases hfast with ⟨-, hs⟩ | ⟨-, hs⟩ | ⟨k, u, -, hstep, hs⟩ <;> rw [hs] at e <;> cases e
    · exact beginFrame_cfg s
    · exact endFrame_cfg hf
    · rw [afterTick8_cfg, afterFastStep_cfg, fastStep_cfg hstep]

end Sys2Proof.Slice0
end

section
/-! The good state: the steps of both engines and the host calls keep it. -/

namespace Sys2Proof.Machine

/-! ## What goodness depends on -/

/-- The reset state with all that `State.Good` speaks of taken from `s`. -/
def goodPart (s : State) : State :=
  { State.reset with
    fault := s.fault, cpuState := s.cpuState, execMode := s.execMode, mem := s.mem, pad := s.pad, cfg := s.cfg,
    i8 := s.i8, pc8 := s.pc8, stack := s.stack, sp8 := s.sp8, breakpoints := s.breakpoints }

theorem goodPart_good (s : State) : (goodPart s).Good ↔ s.Good :=
  ⟨fun h => ⟨h.coherent, h.memory, h.pad, h.widths, h.depth, h.noWait, h.breaks⟩,
    fun h => ⟨h.coherent, h.memory, h.pad, h.widths, h.depth, h.noWait, h.breaks⟩⟩

/-- Goodness reads no field outside `goodPart`. -/
theorem State.Good.congr {s t : State} (h : s.Good) (e : goodPart t = goodPart s) : t.Good :=
  (goodPart_good t).1 (e ▸ (goodPart_good s).2 h)

/-- A faulted machine may only be given the mode `Paused`. -/
theorem State.Good.withMode {s : State} (h : s.Good) {m : ExecMode} (hm : s.fault.isSome → m = .paused) :
    State.Good { s with execMode := m } :=
  ⟨⟨h.coherent.1, hm⟩, h.memory, h.pad, h.widths, h.depth, h.noWait, h.breaks⟩

/-- Pausing, or keeping the mode, keeps a good state. -/
theorem State.Good.pausedOrSame {s : State} (h : s.Good) {m : ExecMode} (hm : m = s.execMode ∨ m = .paused) :
    State.Good { s with execMode := m } :=
  h.withMode fun hf => hm.elim (fun e => e.trans (h.coherent.2 hf)) id

/-- The fault entry sets the record, `Error` and `Paused` together (60_exceptions R251). -/
theorem State.Good.enterFault {s : State} (h : s.Good) (f : FaultInfo) : (enterFault f s).Good :=
  ⟨⟨by simp [Machine.enterFault], fun _ => rfl⟩, h.memory, h.pad, h.widths, h.depth, fun _ => nofun, h.breaks⟩

/-- A good machine without a fault record is not in `Error`. -/
theorem State.Good.cpuState_ne_error {s : State} (h : s.Good) (hf : s.fault = none) : s.cpuState ≠ .error :=
  fun e => by simpa [hf] using h.coherent.1.2 e

/-- Without a fault record, coherence is that `cpuState` is not `Error`. -/
theorem coherent_of_no_fault {s : State} (hf : s.fault = none) (hc : s.cpuState ≠ .error) : s.Coherent :=
  ⟨by simp [hf, hc], by simp [hf]⟩

/-- The range of the depth, one clause for each stack policy. -/
theorem depthGood_of {s : State} (herror : s.cfg.stackPolicy = .error → s.sp8 ≤ 16)
    (hcyclic : s.cfg.stackPolicy = .cyclic → s.sp8 < 16) : s.DepthGood := by
  intro _
  split
  · next hp => exact herror hp
  · next hp => exact hcyclic hp

theorem boundDepth_error_le (k : Nat) : boundDepth .error k ≤ 16 := Nat.min_le_right _ _

theorem boundDepth_cyclic_lt (k : Nat) : boundDepth .cyclic k < 16 := Nat.mod_lt _ (by decide)

theorem zero_fits (w : AddrWidth) : Fits w 0 := Nat.two_pow_pos w.bits

/-! ## Memory -/

theorem ramSize_le_memSize (c : QuirkConfig) : 0x1000 ≤ c.memSize := by
  unfold QuirkConfig.memSize
  cases c.space <;> decide

theorem ramSize_le_loadableSize (c : QuirkConfig) : 0x1000 ≤ loadableSize c := by
  unfold loadableSize
  split
  · exact le_refl _
  · exact ramSize_le_memSize c

theorem memoryGood_write {s : State} (h : s.MemoryGood) {a : Nat} (ha : a < loadableSize s.cfg) (b : Byte) :
    State.MemoryGood { s with mem := s.mem.write a b } := by
  refine ⟨Memory.write_wf h.1 a b, fun c hc => ?_⟩
  rcases Memory.mem_write hc with ⟨rfl, -⟩ | hc
  · exact ha
  · exact h.2 c hc

/-- A write of the fast path stays inside the memory, and the pad follows byte 0 (20_memory R67). -/
theorem State.Good.write8 {s : State} (h : s.Good) (he : s.cfg.engine = .fastPath) (a : Nat) (b : Byte) :
    (write8 s a b).Good := by
  have ha : a % s.cfg.memSize < loadableSize s.cfg := by
    rw [loadableSize, he]
    exact Nat.mod_lt _ (Nat.two_pow_pos _)
  refine ⟨h.coherent, memoryGood_write h.memory ha b, fun _ => ?_, h.widths, h.depth, h.noWait, h.breaks⟩
  rw [write8_read, write8_pad, h.pad he]
  exact if_congr eq_comm rfl rfl

theorem State.Good.writeAll8 {s : State} (h : s.Good) (he : s.cfg.engine = .fastPath) (ws : List (Nat × Byte)) :
    (writeAll8 ws s).Good := by
  induction ws generalizing s with
  | nil => exact h
  | cons w ws ih => exact ih (h.write8 he w.1 w.2) he

/-! ## The backend -/

/-- A CDP1802 instruction writes the RAM window at most, and nothing else that goodness speaks of. -/
theorem State.Good.of_hwFrame {s u : State} (h : s.Good) (he : s.cfg.engine = .hardware) (hu : HwFrame s u) :
    u.Good := by
  have hrest : State.Good { u with mem := s.mem } :=
    h.congr (congrArg (fun w : State => goodPart { w with mem := s.mem }) hu.rest :)
  rcases hu.mem with hm | ⟨a, b, ha, hm⟩
  · exact hrest.congr (by simp only [goodPart, hm])
  · have hlt : a < loadableSize u.cfg := lt_of_lt_of_le ha (ramSize_le_loadableSize _)
    have hmem := memoryGood_write hrest.memory hlt b
    exact ⟨hrest.coherent, by simpa only [State.MemoryGood, hm] using hmem,
      fun hfast => absurd ((hu.cfg ▸ he).symm.trans hfast) (by decide),
      hrest.widths, hrest.depth, hrest.noWait, hrest.breaks⟩

/-- Counting a frame touches nothing that goodness speaks of. -/
theorem State.Good.countFrame {t : State} (h : t.Good) (s : State) : (countFrame s t).Good := h.congr rfl

theorem State.Good.dmaOutCycle {s : State} (h : s.Good) : (dmaOutCycle s).Good := by
  rcases dmaOutCycle_cases s with ⟨v, -, e⟩ | ⟨f, -, e⟩ <;> rw [e]
  · exact h.congr rfl
  · exact h.enterFault f

theorem State.Good.coreStep {s t : State} (h : s.Good) (he : s.cfg.engine = .hardware) (e : coreStep s = .next t) :
    t.Good := by
  rcases coreStep_cases s with ⟨-, hdma⟩ | ⟨-, hint⟩ | ⟨-, hidle⟩ | ⟨-, ⟨op, u, -, hinstr, hframe⟩ | ⟨f, hfault⟩⟩
  · rw [hdma] at e; cases e
    exact h.dmaOutCycle.countFrame s
  · rw [hint] at e; cases e
    exact State.Good.countFrame (t := interruptCycle s) (h.congr rfl) s
  · rw [hidle] at e; cases e
    exact State.Good.countFrame (t := { s with cycles := s.cycles + 1 }) (h.congr rfl) s
  · rw [hinstr] at e; cases e
    have hfetched : (fetched op s).Good := h.congr rfl
    exact State.Good.countFrame (t := countCycles u) ((hfetched.of_hwFrame he hframe).congr rfl) s
  · rw [hfault] at e; cases e
    exact (h.enterFault f).countFrame s

/-- In the backend, addresses that fit their widths may be put in place of the shadow values, and any depth. -/
theorem State.Good.withShadow {s : State} (h : s.Good) (he : s.cfg.engine = .hardware) {i8 pc8 : Addr8}
    {stack : Vector Addr8 16} (sp8 : Nat) (hi : Fits s.cfg.iw i8) (hp : Fits s.cfg.space pc8)
    (hs : ∀ k (hk : k < 16), Fits s.cfg.space stack[k]) :
    State.Good { s with i8 := i8, pc8 := pc8, stack := stack, sp8 := sp8 } :=
  ⟨h.coherent, h.memory, h.pad, ⟨h.widths.1, hi, hp, fun k _ => hs (k % 16) _⟩,
    fun hfast => absurd (he.symm.trans hfast) (by decide), h.noWait, h.breaks⟩

theorem State.WidthsGood.stack_fits {s : State} (h : s.WidthsGood) (k : Nat) (hk : k < 16) :
    Fits s.cfg.space s.stack[k] := by
  obtain ⟨-, -, -, hstack⟩ := h
  simpa only [State.stackAt, Nat.mod_eq_of_lt hk, Vector.get_eq_getElem] using hstack k hk

/-- The refresh trims every address it copies (48_dispatch R239, log 16). -/
theorem shadowRefresh_stack_fits {s : State} (h : s.WidthsGood) (k : Nat) (hk : k < 16) :
    Fits s.cfg.space (shadowRefresh s).stack[k] := by
  simp only [shadowRefresh, Vector.getElem_ofFn]
  split_ifs
  · exact trim_fits _ _
  · exact h.stack_fits k hk

theorem State.Good.atReentry {s : State} (h : s.Good) (he : s.cfg.engine = .hardware) : (atReentry s).Good := by
  have hi : Fits s.cfg.iw (shadowRefresh s).i8 := trim_fits _ _
  have hp : Fits s.cfg.space (shadowRefresh s).pc8 := trim_fits _ _
  refine (h.withShadow he (shadowRefresh s).sp8 hi hp (shadowRefresh_stack_fits h.widths)).congr ?_
  simp only [goodPart, Machine.atReentry, shadowRefresh, State.tookDraw]

theorem State.Good.afterExecute {t : State} (h : t.Good) (s : State) (hit : Bool) : (afterExecute s t hit).Good := by
  obtain ⟨m, _, _, _, _, e, hm⟩ := afterExecute_eq s t hit
  rw [e]
  exact (h.pausedOrSame hm).congr rfl

/-- The ready state takes `PC8` from the start address and keeps memory, stack and breakpoints (70_reset R307). -/
theorem State.Good.readyState {s : State} (h : s.Good) (he : s.cfg.engine = .hardware) (hf : s.fault = none) :
    (readyState s).Good := by
  obtain ⟨hstart, -, -, hstack⟩ := h.widths
  exact ⟨coherent_of_no_fault hf nofun, h.memory, h.pad, ⟨hstart, zero_fits _, hstart, hstack⟩,
    fun hfast => absurd (he.symm.trans hfast) (by decide), fun _ => nofun, h.breaks⟩

/-! ## The fast path -/

/-- What a handler of the fast path keeps is what goodness asks of it. -/
theorem State.Good.of_c8Frame {s u : State} (h : s.Good) (he : s.cfg.engine = .fastPath) (hf : s.fault = none)
    (hu : C8Frame s u) : u.Good := by
  obtain ⟨ws, hmem, hpad⟩ := hu.mem
  have hw := h.writeAll8 he ws
  have hcfg : (Machine.writeAll8 ws s).cfg = s.cfg := by rw [writeAll8_eq]
  refine ⟨coherent_of_no_fault (hu.fault.trans hf) (hu.cpu (h.cpuState_ne_error hf)), ?_, fun _ => ?_,
    hu.widths h.widths, hu.depth h.depth, fun hhw => ?_, ?_⟩
  · simpa only [State.MemoryGood, hmem, hu.cfg, hcfg] using hw.memory
  · rw [hmem, hpad]; exact hw.pad (hcfg.symm ▸ he)
  · rw [hu.cfg, he] at hhw; cases hhw
  · have hb : u.breakpoints = s.breakpoints := (congrArg State.breakpoints hu.rest :)
    simpa only [State.BreakpointsGood, hb] using h.breaks

/-- A parameter handler's answer is committed trimmed and bounded (log 19). -/
theorem State.Good.applyEffect {s : State} (h : s.Good) (he : s.cfg.engine = .fastPath) (hf : s.fault = none)
    (e : HandlerEffect) : (applyEffect e s).Good := by
  rw [Machine.applyEffect]
  refine State.Good.writeAll8 ?_ (by exact he) e.writes
  refine ⟨coherent_of_no_fault hf ?_, h.memory, h.pad, ⟨h.widths.1, trim_fits _ _, trim_fits _ _, fun k _ => ?_⟩,
    depthGood_of (fun hp => ?_) (fun hp => ?_), fun hhw => absurd (he.symm.trans hhw) (by decide), h.breaks⟩
  · show (if e.waiting = true then CpuState.waiting else .normal) ≠ .error
    split_ifs <;> decide
  · simp only [State.stackAt, Vector.get_eq_getElem, Vector.getElem_map]
    exact trim_fits _ _
  · exact (congrArg (boundDepth · e.sp8) hp).trans_le (boundDepth_error_le _)
  · exact (congrArg (boundDepth · e.sp8) hp).trans_lt (boundDepth_cyclic_lt _)

/-- The fetch trims `PC8` (48_dispatch R218). -/
theorem State.Good.fetched8 {s : State} (h : s.Good) : (fetched8 s).Good := by
  obtain ⟨hstart, hi8, -, hstack⟩ := h.widths
  exact ⟨h.coherent, h.memory, h.pad, ⟨hstart, hi8, trim_fits _ _, hstack⟩, h.depth, h.noWait, h.breaks⟩

theorem State.Good.fastStep {s t : State} (h : s.Good) (he : s.cfg.engine = .fastPath) (hf : s.fault = none)
    (e : fastStep s = .next t) : t.Good := by
  rcases fastStep_cases s with ⟨u, hok, hframe⟩ | ⟨x, hparam⟩ | ⟨f, hfault⟩
  · rw [hok] at e; cases e; exact h.fetched8.of_c8Frame he hf hframe
  · rw [hparam] at e; cases e; exact h.fetched8.applyEffect he hf x
  · rw [hfault] at e; cases e; exact h.enterFault f

theorem State.Good.afterFastStep {s : State} (h : s.Good) (op : Word) : (afterFastStep op s).Good := by
  obtain ⟨m, e, hm⟩ := afterFastStep_eq op s
  rw [e]
  exact h.pausedOrSame hm

theorem State.Good.afterTick8 {s : State} (h : s.Good) (k : Nat) : (afterTick8 k s).Good := by
  rcases afterTick8_eq k s with ⟨-, e⟩ | ⟨-, _, _, _, _, e⟩ <;> rw [e]
  · exact h
  · exact h.congr rfl

theorem State.Good.beginFrame {s : State} (h : s.Good) : (beginFrame s).Good := by
  obtain ⟨_, _, e⟩ := beginFrame_eq s
  rw [e]
  exact h.congr rfl

theorem State.Good.endFrame {s : State} (h : s.Good) (hf : s.fault = none) : (endFrame s).Good := by
  obtain ⟨_, _, e⟩ := timerTick_eq s hf
  rw [Machine.endFrame, e]
  exact h.congr rfl

theorem State.Good.pauseFrame {s : State} (h : s.Good) : (pauseFrame s).Good := by
  rcases pauseFrame_eq s with e | ⟨-, -, _, _, _, e⟩ <;> rw [e]
  · exact h
  · exact h.congr rfl

/-! ## Host calls -/

/-- The memory `reset()` leaves is canonical and inside the memory of the configuration (20_memory R68). -/
theorem resetMemory_good (c : QuirkConfig) (program : List Byte) :
    Memory.wf (resetMemory c program) ∧ ∀ x ∈ resetMemory c program, x.1 < loadableSize c := by
  refine ⟨Memory.writeList_wf _ Memory.nil_wf _, fun x hx => ?_⟩
  have hsize := ramSize_le_loadableSize c
  rcases Memory.mem_writeList _ hx with hx | ⟨-, hx⟩
  · cases hx
  · rw [List.length_take, Config.loadOffset] at hx
    omega

/-- No program reaches down to byte 0. -/
theorem resetMemory_read_zero (c : QuirkConfig) (program : List Byte) :
    (resetMemory c program).read 0 = Memory.unlisted 0 :=
  Memory.read_writeList_ne _ _ _ _ (.inl (by decide))

/-- The values `reset()` gives the fields that goodness speaks of, with the memory and the pad as variables. -/
theorem State.Good.resetTo {s : State} (h : s.Good) {m : Memory} {b : Byte} (hm : Memory.wf m)
    (hlt : ∀ x ∈ m, x.1 < loadableSize s.cfg) (hb : b = m.read 0) :
    State.Good { s with
      fault := none, cpuState := .normal, execMode := .paused, mem := m, pad := b, i8 := 0, pc8 := s.cfg.startAddr,
      sp8 := 0 } := by
  obtain ⟨hstart, -, -, hstack⟩ := h.widths
  exact ⟨coherent_of_no_fault rfl nofun, ⟨hm, hlt⟩, fun _ => hb, ⟨hstart, zero_fits _, hstart, hstack⟩,
    depthGood_of (fun _ => Nat.zero_le _) (fun _ => Nat.zero_lt_succ _), fun _ => nofun, h.breaks⟩

theorem State.Good.hostReset {s : State} (h : s.Good) : (hostReset s).Good := by
  obtain ⟨hm, hlt⟩ := resetMemory_good s.cfg s.program
  obtain ⟨r, e⟩ := resetCpu_eq s
  refine (h.resetTo hm hlt (resetMemory_read_zero s.cfg s.program).symm).congr ?_
  simp only [goodPart, Machine.hostReset, e, resetPlatform, resetChip8]

theorem State.Good.setExecMode {s : State} (h : s.Good) (m : ExecMode) : (setExecMode m s).Good := by
  obtain ⟨k, e⟩ := setExecMode_eq m s
  rw [e]
  split_ifs with herr
  · exact h
  · exact (h.withMode fun hf => absurd (h.coherent.1.1 hf) herr).congr rfl

theorem State.Good.withBreakpoints {s : State} (h : s.Good) {bs : List Breakpoint}
    (hb : bs.Pairwise (fun a b => a.addr < b.addr)) : State.Good { s with breakpoints := bs } :=
  ⟨h.coherent, h.memory, h.pad, h.widths, h.depth, h.noWait, hb⟩

theorem State.Good.applyAction {s : State} (h : s.Good) (a : HostAction) : (applyAction a s).Good := by
  cases a with
  | reset => exact h.hostReset
  | loadAndReset image => exact State.Good.hostReset (s := { s with program := image }) (h.congr rfl)
  | setExecMode m => exact (h.setExecMode m).pauseFrame
  | setBreakpoint b =>
    simp only [Machine.applyAction, setBreakpoint]
    split_ifs
    · exact h
    · exact h.withBreakpoints (insertBreakpoint_pairwise b s.breakpoints h.breaks).1
  | removeBreakpoint a =>
    simp only [Machine.applyAction, removeBreakpoint]
    split_ifs
    · exact h
    · exact h.withBreakpoints (List.Pairwise.filter _ h.breaks)

end Sys2Proof.Machine

namespace Sys2Proof.Slice0

open Sys2Proof.Machine

/-- Settles O59, by the cases of a step (`step_cases`): a host call, a held machine, the two forms of a backend step,
the three of a fast-path step; the halt of a faulted machine is not a next state. -/
theorem everyStepKeepsAGoodState : Obligations.EveryStepKeepsAGoodState := by
  intro s t h e
  rcases step_cases s with ⟨s', hcall, hs⟩ | ⟨-, f, -, hs⟩ | ⟨-, -, -, hs⟩ | ⟨-, hf, -, he, hbackend⟩ |
      ⟨-, hf, -, he, hfast⟩
  · rw [hs] at e; cases e
    obtain ⟨a, rest, rfl⟩ := takeAction_some hcall
    exact State.Good.applyAction (s := { s with inbox := rest }) (h.congr rfl) a
  · rw [hs] at e; cases e
  · rw [hs] at e; cases e; exact h
  · rcases hbackend with ⟨-, hs⟩ | ⟨-, u, hcore, hs⟩
    · rw [hs] at e; cases e; exact h.readyState he hf
    · rw [hs] at e; cases e
      have hu := h.coreStep he hcore
      have hcfg := coreStep_cfg hcore
      refine State.Good.afterExecute ?_ s _
      split_ifs
      · exact hu.atReentry (hcfg.symm ▸ he)
      · exact hu
  · rcases hfast with ⟨-, hs⟩ | ⟨-, hs⟩ | ⟨k, u, -, hstep, hs⟩ <;> rw [hs] at e <;> cases e
    · exact h.beginFrame
    · exact h.endFrame hf
    · exact ((h.fastStep he hf hstep).afterFastStep _).afterTick8 k

/-- Settles O60: memory is empty, every address 0 or the start address, the depth 0; the pad is asked for in the fast
path only. -/
theorem resetStateIsGood : Obligations.ResetStateIsGood := by
  refine ⟨coherent_of_no_fault rfl (by decide), ⟨Memory.nil_wf, fun c hc => nomatch hc⟩, nofun, ?_,
    nofun, fun _ => by decide, List.Pairwise.nil⟩
  unfold State.WidthsGood Fits
  decide

end Sys2Proof.Slice0
end

section
/-! The writers of `DF`, `IE`, `Q`, `T`, `P`, `X`, of the display bit and of the two latches. -/

namespace Sys2Proof.Machine

/-! ## What an execute part that ran has answered -/

theorem withX_inv {f : Byte → State → State} {s u : State} (h : withX f s = .ok u) : ∃ m, u = f m s := by
  cases hr : memRead s (s.reg s.x) with
  | error e => rw [withX_error f hr] at h; cases h
  | ok m => rw [withX_ok f hr] at h; cases h; exact ⟨m, rfl⟩

theorem withImmediate_inv {b : Byte} {f : Byte → State → State} {s u : State} (h : withImmediate b f s = .ok u) :
    u = f b (s.setPc (s.pc + 1)) := by
  cases hr : memRead s s.pc with
  | error e => rw [withImmediate_error b f hr] at h; cases h
  | ok m => rw [withImmediate_ok f hr] at h; cases h; rfl

theorem loadInto_inv {read : Except FaultInfo Byte} {after : State → State} {s u : State}
    (h : loadInto read after s = .ok u) : ∃ m, u = after { s with d := m } := by
  cases hr : read with
  | error e => rw [loadInto_error after s hr] at h; cases h
  | ok m => rw [loadInto_ok after s hr] at h; cases h; exact ⟨m, rfl⟩

theorem loadImmediate_inv {b : Byte} {s u : State} (h : loadImmediate b s = .ok u) :
    u = { s.setPc (s.pc + 1) with d := b } := by
  cases hr : memRead s s.pc with
  | error e => rw [loadImmediate_error b hr] at h; cases h
  | ok m => rw [loadImmediate_ok b hr] at h; cases h; rfl

theorem memWrite_inv {s u : State} {a : Word} {v : Byte} (h : memWrite s a v = .ok u) :
    ∃ m, u = { s with mem := m } := ⟨_, (memWrite_ok h).1⟩

theorem storeAt_inv {a : Word} {v : Byte} {after : State → State} {s u : State} (h : storeAt a v after s = .ok u) :
    ∃ m, u = after { s with mem := m } := by
  cases hw : memWrite s a v with
  | error e => rw [storeAt_error after hw] at h; cases h
  | ok w =>
    rw [storeAt_ok after hw] at h; cases h
    obtain ⟨m, rfl⟩ := memWrite_inv hw
    exact ⟨m, rfl⟩

theorem shortBranch_inv {c : Bool} {a : Byte} {s u : State} (h : shortBranch c a s = .ok u) :
    ∃ w, u = s.setPc w := by
  rcases shortBranch_cases c a s with ⟨-, -, e⟩ | ⟨-, e⟩ | ⟨f, -, -, e⟩ <;> rw [e] at h <;> cases h <;>
    exact ⟨_, rfl⟩

theorem longBranch_inv {c : Bool} {a : Word} {s u : State} (h : longBranch c a s = .ok u) :
    ∃ w, u = s.setPc w := by
  rcases longBranch_cases c a s with ⟨-, -, e⟩ | ⟨-, e⟩ | ⟨f, -, -, e⟩ <;> rw [e] at h <;> cases h <;>
    exact ⟨_, rfl⟩

theorem longSkip_inv {c : Bool} {s u : State} (h : longSkip c s = .ok u) : u = s ∨ u = s.setPc (s.pc + 2) := by
  cases c <;> cases h
  · exact .inl rfl
  · exact .inr rfl

theorem markStack_inv {s u : State} (h : markStack s = .ok u) :
    ∃ m w, u = { s with t := savedXP s, x := s.p, mem := m }.setReg 2 w := by
  cases hw : memWrite { s with t := savedXP s } (s.reg 2) (savedXP s) with
  | error e => rw [markStack_error hw] at h; cases h
  | ok v =>
    rw [markStack_ok hw] at h; cases h
    obtain ⟨m, rfl⟩ := memWrite_inv hw
    exact ⟨m, _, rfl⟩

theorem returnThroughX_inv {b : Bool} {s u : State} (h : returnThroughX b s = .ok u) :
    ∃ v, u = { s.setReg s.x (s.reg s.x + 1) with x := hiNib v, p := loNib v, ie := b } := by
  cases hr : memRead s (s.reg s.x) with
  | error e => rw [returnThroughX_error b hr] at h; cases h
  | ok v => rw [returnThroughX_ok b hr] at h; cases h; exact ⟨v, rfl⟩

theorem outputByte_inv {p : Port} {s u : State} (h : outputByte p s = .ok u) :
    ∃ v, u = (ioOut p v s).setReg s.x (s.reg s.x + 1) := by
  cases hr : memRead s (s.reg s.x) with
  | error e => rw [outputByte_error p hr] at h; cases h
  | ok v => rw [outputByte_ok p hr] at h; cases h; exact ⟨v, rfl⟩

theorem storeInput_inv {p : Port} {s u : State} (h : storeInput p s = .ok u) :
    ∃ m, u = { ioIn p s with mem := m, d := inputByte p s } := by
  cases hw : memWrite (ioIn p s) (s.reg s.x) (inputByte p s) with
  | error e => rw [storeInput_error hw] at h; cases h
  | ok v =>
    rw [storeInput_ok hw] at h; cases h
    obtain ⟨m, rfl⟩ := memWrite_inv hw
    exact ⟨m, rfl⟩

/-! ## Who may write a control bit -/

/-- The arithmetic and the shift instructions: the writers of `DF` (10_state R24). -/
def WritesDf (i : Instr) : Prop :=
  i ∈ [Instr.add, .adc, .sd, .sdb, .sm, .smb, .shr, .shrc, .shl, .shlc] ∨
    ∃ imm, i ∈ [Instr.adi imm, .adci imm, .sdi imm, .sdbi imm, .smi imm, .smbi imm]

/-- Between `s` and `u` no control bit differs that `i` is not a writer of. A clause that is not given is that of a bit
which is the same in both states by computation. -/
structure ControlWrites (i : Instr) (s u : State) : Prop where
  df : u.df ≠ s.df → WritesDf i := by exact absurd rfl
  ie : u.ie ≠ s.ie → i = .ret ∨ i = .dis := by exact absurd rfl
  q : u.q ≠ s.q → i = .seq ∨ i = .req := by exact absurd rfl
  t : u.t ≠ s.t → i = .mark := by exact absurd rfl
  p : u.p ≠ s.p → i = .ret ∨ i = .dis ∨ ∃ n, i = .sep n := by exact absurd rfl
  x : u.x ≠ s.x → i = .ret ∨ i = .dis ∨ i = .mark ∨ ∃ n, i = .sex n := by exact absurd rfl
  display : u.displayEnabled ≠ s.displayEnabled → i = .out 1 ∨ i = .inp 1 := by exact absurd rfl
  key : u.keyLatch ≠ s.keyLatch → i = .out 2 := by exact absurd rfl
  boot : u.bootLatch ≠ s.bootLatch → i = .out 4 ∧ u.bootLatch = false := by exact absurd rfl

/-- Neither the fetch nor the cycle count nor a fault entry writes a control bit. -/
theorem ControlWrites.instructionStep {i : Instr} {op : Byte} {body : State → Except FaultInfo State} {s t : State}
    (hbody : ∀ v u, body v = .ok u → ControlWrites i v u) (h : instructionStep op body s = .next t) :
    ControlWrites i s t := by
  rcases instructionStep_cases op body s with ⟨u, hu, e⟩ | ⟨f, -, e⟩ <;> rw [e] at h <;> cases h
  · have hw := hbody _ _ hu
    exact { hw with }
  · exact {}

/-- No handler of the fast path writes a control bit of the CDP1802 or the platform. -/
theorem ControlWrites.fastPath {i : Instr} {s t : State} (hi : i.engine = .fastPath) (h : exec i s = .next t) :
    ControlWrites i s t := by
  rcases exec_fastPath_cases i hi s with ⟨u, e, hu⟩ | ⟨x, e⟩ | ⟨f, e⟩ <;> rw [e] at h <;> cases h
  · have hrest := hu.rest
    exact
      { df := absurd (congrArg State.df hrest :), ie := absurd (congrArg State.ie hrest :)
        q := absurd (congrArg State.q hrest :), t := absurd (congrArg State.t hrest :)
        p := absurd (congrArg State.p hrest :), x := absurd (congrArg State.x hrest :)
        display := absurd (congrArg State.displayEnabled hrest :), key := absurd (congrArg State.keyLatch hrest :)
        boot := absurd (congrArg State.bootLatch hrest :) }
  · rw [applyEffect, writeAll8_eq]; exact {}
  · exact {}

theorem ControlWrites.withX {i : Instr} {f : Byte → State → State} {v u : State}
    (hf : ∀ m s, ControlWrites i s (f m s)) (h : withX f v = .ok u) : ControlWrites i v u := by
  obtain ⟨m, rfl⟩ := withX_inv h
  exact hf m v

theorem ControlWrites.withImmediate {i : Instr} {b : Byte} {f : Byte → State → State} {v u : State}
    (hf : ∀ m s, ControlWrites i s (f m s)) (h : withImmediate b f v = .ok u) : ControlWrites i v u := by
  rw [withImmediate_inv h]
  have hw := hf b (v.setPc (v.pc + 1))
  exact { hw with }

/-- An output strobe writes the display bit through port 1, the key latch through port 2, and clears the boot latch
through port 4 (47_io R203). -/
theorem ControlWrites.out (port : Port) (b : Byte) (s : State) : ControlWrites (.out port) s (ioOut port b s) := by
  rw [ioOut_eq]
  refine { display := fun h => ?_, key := fun h => ?_, boot := fun h => ?_ }
  · exact .inl (congrArg Instr.out (of_not_not fun hp => h (if_neg hp)))
  · exact congrArg Instr.out (of_not_not fun hp => h (if_neg hp))
  · have hp : port = 4 := of_not_not fun hp => h (if_neg hp)
    exact ⟨congrArg Instr.out hp, if_pos hp⟩

/-- An input strobe writes the display bit, through port 1 (47_io R204). -/
theorem ControlWrites.inp (port : Port) (s : State) : ControlWrites (.inp port) s (ioIn port s) := by
  rw [ioIn_eq]
  exact { display := fun h => .inr (congrArg Instr.inp (of_not_not fun hp => h (if_neg hp))) }

/-- The control bits every CDP1802 instruction may write: by the operation its execute part is made of. -/
theorem ControlWrites.hardware {i : Instr} {s t : State} (hi : i.engine = .hardware) (h : exec i s = .next t) :
    ControlWrites i s t := by
  cases i
  case ldn | lda | ldx | ldxa =>
    refine ControlWrites.instructionStep (fun v u hu => ?_) h
    obtain ⟨m, rfl⟩ := loadInto_inv hu
    exact {}
  case ldi imm =>
    refine ControlWrites.instructionStep (fun v u hu => ?_) h
    rw [loadImmediate_inv hu]
    exact {}
  case str | stxd =>
    refine ControlWrites.instructionStep (fun v u hu => ?_) h
    obtain ⟨m, rfl⟩ := storeAt_inv hu
    exact {}
  case or | xor | and =>
    exact ControlWrites.instructionStep (fun v u => ControlWrites.withX fun m s => {}) h
  case ori imm | xri imm | ani imm =>
    exact ControlWrites.instructionStep (fun v u => ControlWrites.withImmediate fun m s => {}) h
  case add | adc | sd | sdb | sm | smb =>
    exact ControlWrites.instructionStep
      (fun v u => ControlWrites.withX fun m s => { df := fun _ => .inl (by simp) }) h
  case adi imm | adci imm | sdi imm | sdbi imm | smi imm | smbi imm =>
    exact ControlWrites.instructionStep
      (fun v u => ControlWrites.withImmediate fun m s => { df := fun _ => .inr ⟨imm, by simp⟩ }) h
  case shr | shrc | shl | shlc =>
    simp only [exec, execShr, execShrc, execShl, execShlc] at h
    refine ControlWrites.instructionStep (fun v u hu => ?_) h
    cases hu
    exact { df := fun _ => .inl (by simp) }
  case br | bq | bz | bdf | b1 | b2 | b4 | nbr | bnq | bnz | bnf | bn1 | bn2 | bn4 =>
    refine ControlWrites.instructionStep (fun v u hu => ?_) h
    obtain ⟨w, rfl⟩ := shortBranch_inv hu
    exact {}
  case b3 | bn3 =>
    simp only [exec, execB3, execBn3] at h
    refine ControlWrites.instructionStep (fun v u hu => ?_) h
    obtain ⟨w, rfl⟩ := shortBranch_inv hu
    exact {}
  case lbr | lbq | lbz | lbdf | lbnq | lbnz | lbnf =>
    refine ControlWrites.instructionStep (fun v u hu => ?_) h
    obtain ⟨w, rfl⟩ := longBranch_inv hu
    exact {}
  case lskp | lsnq | lsnz | lsnf | lsie | lsq | lsz | lsdf =>
    simp only [exec, execLskp, execLsnq, execLsnz, execLsnf, execLsie, execLsq, execLsz, execLsdf] at h
    refine ControlWrites.instructionStep (fun v u hu => ?_) h
    rcases longSkip_inv hu with rfl | rfl <;> exact {}
  case inc | dec | irx | glo | ghi | plo | phi | nop | idl =>
    simp only [exec, execInc, execDec, execIrx, execGlo, execGhi, execPlo, execPhi, execNop, execIdl] at h
    refine ControlWrites.instructionStep (fun v u hu => ?_) h
    cases hu
    exact {}
  case sep n =>
    simp only [exec, execSep] at h
    refine ControlWrites.instructionStep (fun v u hu => ?_) h
    cases hu
    exact { p := fun _ => .inr (.inr ⟨n, rfl⟩) }
  case sex n =>
    simp only [exec, execSex] at h
    refine ControlWrites.instructionStep (fun v u hu => ?_) h
    cases hu
    exact { x := fun _ => .inr (.inr (.inr ⟨n, rfl⟩)) }
  case seq =>
    simp only [exec, execSeq] at h
    refine ControlWrites.instructionStep (fun v u hu => ?_) h
    cases hu
    exact { q := fun _ => .inl rfl }
  case req =>
    simp only [exec, execReq] at h
    refine ControlWrites.instructionStep (fun v u hu => ?_) h
    cases hu
    exact { q := fun _ => .inr rfl }
  case sav =>
    refine ControlWrites.instructionStep (fun v u hu => ?_) h
    obtain ⟨m, rfl⟩ := memWrite_inv hu
    exact {}
  case mark =>
    refine ControlWrites.instructionStep (fun v u hu => ?_) h
    obtain ⟨m, w, rfl⟩ := markStack_inv hu
    exact { t := fun _ => rfl, x := fun _ => .inr (.inr (.inl rfl)) }
  case ret =>
    refine ControlWrites.instructionStep (fun v u hu => ?_) h
    obtain ⟨b, rfl⟩ := returnThroughX_inv hu
    exact { ie := fun _ => .inl rfl, p := fun _ => .inl rfl, x := fun _ => .inl rfl }
  case dis =>
    refine ControlWrites.instructionStep (fun v u hu => ?_) h
    obtain ⟨b, rfl⟩ := returnThroughX_inv hu
    exact { ie := fun _ => .inr rfl, p := fun _ => .inr (.inl rfl), x := fun _ => .inr (.inl rfl) }
  case out port =>
    refine ControlWrites.instructionStep (fun v u hu => ?_) h
    obtain ⟨b, rfl⟩ := outputByte_inv hu
    have hw := ControlWrites.out port b v
    exact { hw with }
  case inp port =>
    refine ControlWrites.instructionStep (fun v u hu => ?_) h
    obtain ⟨m, rfl⟩ := storeInput_inv hu
    have hw := ControlWrites.inp port v
    exact { hw with }
  case reserved =>
    simp only [exec, execReserved] at h
    exact ControlWrites.instructionStep (fun v u hu => by cases hu) h
  all_goals cases hi

theorem exec_controlWrites {i : Instr} {s t : State} (h : exec i s = .next t) : ControlWrites i s t := by
  cases hi : i.engine with
  | hardware => exact ControlWrites.hardware hi h
  | fastPath => exact ControlWrites.fastPath hi h

end Sys2Proof.Machine

namespace Sys2Proof.Slice0

open Sys2Proof.Machine

/-- Settles O56: the handlers of the fast path keep every control bit by their frame, and each CDP1802 instruction
writes those its execute part names (`ControlWrites.hardware`). -/
theorem onlyTheNamedInstructionsWriteControlBits : Obligations.OnlyTheNamedInstructionsWriteControlBits := by
  intro i s t h
  obtain ⟨hdf, hie, hq, ht, hp, hx, hdisplay, hkey, hboot⟩ := exec_controlWrites h
  exact ⟨hdf, hie, hq, ht, hp, hx, hdisplay, hkey, hboot⟩

end Sys2Proof.Slice0
end

section
/-! The CDP1802's memory accesses (20_memory R50 to R53): the windows, a faulting access, the load contract. -/

namespace Sys2Proof.Machine

/-! ## The windows -/

theorem inRam_eq_false_iff (ea : Nat) : inRam ea = false ↔ 0x1000 ≤ ea := by
  rw [Bool.eq_false_iff, ne_eq, inRam_iff, Nat.not_lt]

theorem inRom_eq_false_iff (ea : Nat) : inRom ea = false ↔ ea < 0x8000 ∨ 0x8200 ≤ ea := by
  rw [Bool.eq_false_iff, ne_eq, inRom_iff]
  omega

/-! ## Loading a program -/

/-- From its start on, a written list is read byte by byte, and past its end what stood there before. -/
theorem Memory.read_writeList (bytes : List Byte) (m : Memory) {a b : Nat} (h : a ≤ b) :
    (m.writeList a bytes).read b = bytes.getD (b - a) (m.read b) := by
  induction bytes generalizing m a with
  | nil => rfl
  | cons c cs ih =>
    simp only [Memory.writeList]
    rcases Nat.eq_or_lt_of_le h with rfl | hlt
    · rw [Memory.read_writeList_ne _ _ _ _ (.inl (Nat.lt_succ_self _)), Memory.read_write_same, Nat.sub_self,
        List.getD_cons_zero]
    · have hsub : b - a = b - (a + 1) + 1 := by omega
      rw [ih _ hlt, Memory.read_write_ne _ _ _ _ hlt.ne', hsub, List.getD_cons_succ]

/-- From `LOAD_OFFSET` on, memory after `reset()` is the program, truncated to what fits, and zeros (70_reset R302). -/
theorem resetMemory_read (c : QuirkConfig) (program : List Byte) {a : Nat} (ha : 0x200 ≤ a) :
    (resetMemory c program).read a = if a < loadableSize c then program.getD (a - 0x200) 0 else 0 := by
  have hzero : Memory.read [] a = 0 := if_neg (Nat.not_lt.2 ha)
  have hfits : a - 0x200 < loadableSize c - 0x200 ↔ a < loadableSize c := by omega
  have hread : (resetMemory c program).read a = (program.take (loadableSize c - 0x200)).getD (a - 0x200) 0 :=
    hzero ▸ Memory.read_writeList _ [] ha
  rw [hread, List.getD_eq_getElem?_getD, List.getElem?_take, List.getD_eq_getElem?_getD, if_congr hfits rfl rfl]
  split_ifs <;> rfl

theorem hostReset_mem (s : State) : (hostReset s).mem = resetMemory s.cfg s.program := by
  obtain ⟨_, e⟩ := resetCpu_eq s
  simp only [hostReset, e, resetPlatform, resetChip8]

theorem readyState_mem (s : State) : (readyState s).mem = s.mem := rfl

/-! ## A fault counts no frame -/

theorem countFrame_enterFault (s : State) (f : FaultInfo) : countFrame s (enterFault f s) = enterFault f s := by
  rw [countFrame, enterFault_cycles, if_pos rfl]; rfl

end Sys2Proof.Machine

namespace Sys2Proof.Slice0

open Sys2Proof.Machine

/-! ## An execute part that faults -/

/-- The register file after the fetch, in the statements' vocabulary. -/
theorem reg_fetched_eq_stepped (s : State) (op : Byte) (k : Nib) : (fetched op s).reg k = stepped s 1 k := by
  rw [reg_fetched, stepped]
  split_ifs with hk
  · rw [hk]; rfl
  · rfl

theorem memWrite_of_not_writable {s : State} {a : Word} (v : Byte) (h : ¬ Writable s a) :
    memWrite s a v = .error (.hardwareFault .write a) := by
  rcases memWrite_cases s a v with ⟨hram, -⟩ | ⟨hrom, hignore, -⟩ | ⟨-, -, e⟩
  · exact absurd (.inl hram) h
  · exact absurd (.inr ⟨hrom, hignore⟩) h
  · exact e

theorem faults_iff (i : Instr) (s : State) (f : FaultInfo) : Faults i s f ↔ exec i s = .next (enterFault f s) :=
  Iff.rfl

section
variable {s : State} {f : FaultInfo} {op : Byte}

theorem memRead_reg_fetched {n : Nib} (h : memRead s (stepped s 1 n) = .error f) :
    memRead (fetched op s) ((fetched op s).reg n) = .error f := by
  rw [reg_fetched_eq_stepped, memRead_fetched, h]

theorem memRead_pc_fetched (h : memRead s (s.pc + 1) = .error f) :
    memRead (fetched op s) (fetched op s).pc = .error f := by
  rw [pc_fetched, memRead_fetched, h]

/-- A write that may not go through faults in every state that the fetch or a strobe after it leads to. -/
theorem memWrite_reg_fetched {u : State} {n : Nib} (v : Byte) (h : ¬ Writable s (stepped s 1 n))
    (hlatch : u.bootLatch = s.bootLatch) (hcfg : u.cfg = s.cfg) :
    memWrite u ((fetched op s).reg n) v = .error (.hardwareFault .write (stepped s 1 n)) := by
  rw [reg_fetched_eq_stepped]
  refine memWrite_of_not_writable v ?_
  simpa only [Writable, effAddr, hlatch, hcfg] using h

theorem loadX_faults {after : State → State} (h : memRead s (stepped s 1 s.x) = .error f) :
    instructionStep op (fun u => loadInto (operandX u) after u) s = .next (enterFault f s) :=
  instructionStep_error (loadInto_error after _ (memRead_reg_fetched h))

theorem withX_faults {g : State → Byte → State → State} (h : memRead s (stepped s 1 s.x) = .error f) :
    instructionStep op (fun u => withX (g u) u) s = .next (enterFault f s) :=
  instructionStep_error (withX_error _ (memRead_reg_fetched h))

theorem returnThroughX_faults {ie : Bool} (h : memRead s (stepped s 1 s.x) = .error f) :
    instructionStep op (fun u => returnThroughX ie u) s = .next (enterFault f s) :=
  instructionStep_error (returnThroughX_error ie (memRead_reg_fetched h))

theorem withImmediate_faults {imm : Byte} {g : State → Byte → State → State}
    (h : memRead s (s.pc + 1) = .error f) :
    instructionStep op (fun u => withImmediate imm (g u) u) s = .next (enterFault f s) :=
  instructionStep_error (withImmediate_error imm _ (memRead_pc_fetched h))

end

/-- Settles O11, by the three answers of a read (`memRead_cases`). -/
theorem readWindows : Obligations.ReadWindows := by
  intro s a ea hea
  obtain rfl : ea = effAddr s a := hea
  rcases memRead_cases s a with ⟨hram, e⟩ | ⟨hrom, e⟩ | ⟨hram, hrom, e⟩
  · rw [inRam_iff] at hram
    exact ⟨fun _ => e, by omega, by omega⟩
  · rw [inRom_iff] at hrom
    exact ⟨by omega, fun _ => e, by omega⟩
  · rw [inRam_eq_false_iff] at hram
    rw [inRom_eq_false_iff] at hrom
    exact ⟨by omega, by omega, fun _ => e⟩

/-- Settles O12, by the answers of a write (`memWrite_cases`). -/
theorem writeWindows : Obligations.WriteWindows := by
  intro s a ea v hea
  obtain rfl : ea = effAddr s a := hea
  rcases memWrite_cases s a v with ⟨hram, e⟩ | ⟨hrom, hignore, e⟩ | ⟨hram, hrom, e⟩
  · rw [inRam_iff] at hram
    exact ⟨fun _ => ⟨_, e, Memory.read_write_same _ _ _, fun b hb => Memory.read_write_ne _ _ _ _ hb⟩,
      by omega, by omega, by omega⟩
  · rw [inRom_iff] at hrom
    exact ⟨by omega, fun _ hfault => absurd (hfault.symm.trans hignore) nofun, fun _ _ => e, by omega⟩
  · rw [inRam_eq_false_iff] at hram
    rw [inRom_eq_false_iff] at hrom
    refine ⟨by omega, fun _ _ => e, fun hin hignore => ?_, fun _ => e⟩
    rcases hrom with hout | hfault
    · omega
    · exact absurd (hfault.symm.trans hignore) nofun

/-- Settles O15: the execute part of each instruction answers the fault of its access, which the instruction step
enters from the state before the fetch. -/
theorem dataAccessFaultCommitsNothing : Obligations.DataAccessFaultCommitsNothing := by
  intro s f n port imm
  simp only [List.forall_mem_cons, List.not_mem_nil, false_implies, implies_true, and_true]
  simp only [faults_iff, exec]
  refine ⟨fun h => ?readN, fun h => ?readX, fun h => ?readImmediate, fun h => ?writeN, fun h => ?writeX,
    fun h => ?mark⟩
  case readN =>
    exact ⟨instructionStep_error (loadInto_error _ _ (memRead_reg_fetched h)),
      instructionStep_error (loadInto_error _ _ (memRead_reg_fetched h))⟩
  case readX =>
    exact ⟨loadX_faults h, loadX_faults h, withX_faults h, withX_faults h, withX_faults h, withX_faults h,
      withX_faults h, withX_faults h, withX_faults h, withX_faults h, withX_faults h, returnThroughX_faults h,
      returnThroughX_faults h, instructionStep_error (outputByte_error port (memRead_reg_fetched h))⟩
  case readImmediate =>
    exact ⟨instructionStep_error (loadImmediate_error imm (memRead_pc_fetched h)), withImmediate_faults h,
      withImmediate_faults h, withImmediate_faults h, withImmediate_faults h, withImmediate_faults h,
      withImmediate_faults h, withImmediate_faults h, withImmediate_faults h, withImmediate_faults h⟩
  case writeN => exact instructionStep_error (storeAt_error _ (memWrite_reg_fetched _ h rfl rfl))
  case writeX =>
    have hlatch (u : State) : (ioIn port u).bootLatch = u.bootLatch := by rw [ioIn_eq]; rfl
    have hcfg (u : State) : (ioIn port u).cfg = u.cfg := by rw [ioIn_eq]; rfl
    exact ⟨instructionStep_error (storeAt_error _ (memWrite_reg_fetched _ h rfl rfl)),
      instructionStep_error (memWrite_reg_fetched _ h rfl rfl),
      instructionStep_error (storeInput_error (memWrite_reg_fetched _ h (hlatch _) (hcfg _)))⟩
  case mark => exact instructionStep_error (markStack_error (memWrite_reg_fetched _ h rfl rfl))

/-- Settles O44: the fault is entered from the state before the fetch, and no cycle passes that could end a frame. -/
theorem opcodeFetchFault : Obligations.OpcodeFetchFault := by
  intro s f hcycle hread
  have hcore : coreStep s = .next (countFrame s (enterFault f s)) := by
    simp only [coreStep, hcycle, runInstruction, instructionAt, hread, mapNext]
  rw [hcore, countFrame_enterFault]; rfl

/-- Settles O55: `reset()` lays the program into the memory (`resetMemory_read`), and the ready state keeps it. -/
theorem loadedProgramStandsAtLoadOffset : Obligations.LoadedProgramStandsAtLoadOffset := by
  intro s image a ha
  have hread : (applyAction (.loadAndReset image) s).mem.read a =
      if a < loadableSize s.cfg then image.getD (a - 0x200) 0 else 0 := by
    rw [applyAction, hostReset_mem, resetMemory_read _ _ ha]
  exact ⟨hread, by rw [readyState_mem, hread]⟩

end Sys2Proof.Slice0
end

section
/-! Encoding and decoding (30_encoding R71, R73, R74; 48_dispatch R215, R216): the two decoders against the encoder. -/

namespace Sys2Proof

/-! ## The CDP1802 decoder, by the opcode's entry -/

section
variable {op : Byte} (rest : List Byte)

theorem decode1802_alone {i : Instr} (h : formOf op = .alone i) : decode1802 (op :: rest) = .ok (i, rest) := by
  simp only [decode1802, h]

theorem decode1802_withByte {mk : Byte → Instr} (h : formOf op = .withByte mk) (b : Byte) :
    decode1802 (op :: b :: rest) = .ok (mk b, rest) := by
  simp only [decode1802, h]

theorem decode1802_withWord {mk : Word → Instr} (h : formOf op = .withWord mk) (a : Word) :
    decode1802 (op :: hiByte a :: loByte a :: rest) = .ok (mk a, rest) := by
  simp only [decode1802, h, joinBytes_hi_lo]

end

/-- Everything the CDP1802 decoder can read. -/
theorem decode1802_ok_cases {op : Byte} {tail rest : List Byte} {i : Instr}
    (h : decode1802 (op :: tail) = .ok (i, rest)) :
    (formOf op = .alone i ∧ tail = rest) ∨
    (∃ mk b, formOf op = .withByte mk ∧ i = mk b ∧ tail = b :: rest) ∨
    (∃ mk hi lo, formOf op = .withWord mk ∧ i = mk (joinBytes hi lo) ∧ tail = hi :: lo :: rest) := by
  cases hf : formOf op with
  | alone j =>
    rw [decode1802_alone tail hf] at h
    cases h
    exact .inl ⟨rfl, rfl⟩
  | withByte mk =>
    rcases tail with _ | ⟨b, tail⟩ <;> simp only [decode1802, hf] at h <;> cases h
    exact .inr (.inl ⟨mk, b, rfl, rfl, rfl⟩)
  | withWord mk =>
    rcases tail with _ | ⟨hi, _ | ⟨lo, tail⟩⟩ <;> simp only [decode1802, hf] at h <;> cases h
    exact .inr (.inr ⟨mk, hi, lo, rfl, rfl, rfl⟩)

/-! ## Rows 0 and 6 of the map, where a well-formed operand is not 0 -/

theorem formOf_ldn {n : Nib} (hn : n ≠ 0#4) : formOf (joinNibs 0x0#4 n) = .alone (.ldn n) := by
  simp [formOf, hn]

theorem port_cases {p : Port} (hp : p ≠ 0) : p = 1 ∨ p = 2 ∨ p = 3 ∨ p = 4 ∨ p = 5 ∨ p = 6 ∨ p = 7 := by
  revert p; decide

theorem formOf_out {p : Port} (hp : p ≠ 0) : formOf (joinNibs 0x6#4 (0#1 ++ p)) = .alone (.out p) := by
  rcases port_cases hp with rfl | rfl | rfl | rfl | rfl | rfl | rfl <;> rfl

theorem formOf_inp {p : Port} (hp : p ≠ 0) : formOf (joinNibs 0x6#4 (1#1 ++ p)) = .alone (.inp p) := by
  rcases port_cases hp with rfl | rfl | rfl | rfl | rfl | rfl | rfl <;> rfl

/-- Each CDP1802 constructor is read back by the entry of its encoding's opcode byte (30_encoding R74). -/
theorem decode1802_encode {i : Instr} (hi : i.engine = .hardware) (hwf : i.wf = true) (rest : List Byte) :
    decode1802 (encode i ++ rest) = .ok (i, rest) := by
  cases i
  case irx | ldx | ldxa | stxd | or | xor | and | shr | shrc | shl | shlc | add | adc | sd | sdb | sm | smb | lskp |
      lsnq | lsnz | lsnf | lsie | lsq | lsz | lsdf | nop | idl | seq | req | sav | mark | ret | dis | reserved =>
    exact decode1802_alone rest rfl
  case inc n | dec n | lda n | str n | glo n | ghi n | plo n | phi n | sep n | sex n =>
    exact decode1802_alone rest (by simp [formOf])
  case ldn n => exact decode1802_alone rest (formOf_ldn (bne_iff_ne.1 hwf))
  case out p => exact decode1802_alone rest (formOf_out (bne_iff_ne.1 hwf))
  case inp p => exact decode1802_alone rest (formOf_inp (bne_iff_ne.1 hwf))
  case ldi b | ori b | xri b | ani b | adi b | adci b | sdi b | sdbi b | smi b | smbi b | br b | bq b | bz b | bdf b |
      b1 b | b2 b | b3 b | b4 b | nbr b | bnq b | bnz b | bnf b | bn1 b | bn2 b | bn3 b | bn4 b =>
    exact decode1802_withByte rest rfl b
  case lbr a | lbq a | lbz a | lbdf a | lbnq a | lbnz a | lbnf a => exact decode1802_withWord rest rfl a
  all_goals cases hi

/-! ## The four digits of a CHIP-8 opcode -/

/-- `op[15:12]`; the other digits are `fieldX`, `fieldY` and `fieldN`. -/
def fieldTop (op : Word) : Nib := op.extractLsb' 12 4

theorem fieldTop_toNat (op : Word) : (fieldTop op).toNat = op.toNat / 4096 := by
  have h : op.toNat < 2 ^ 16 := op.isLt
  simp only [fieldTop, BitVec.extractLsb'_toNat, Nat.shiftRight_eq_div_pow]
  omega

theorem fieldX_toNat (op : Word) : (fieldX op).toNat = op.toNat / 256 % 16 := by
  simp only [fieldX, BitVec.extractLsb'_toNat, Nat.shiftRight_eq_div_pow]

theorem fieldY_toNat (op : Word) : (fieldY op).toNat = op.toNat / 16 % 16 := by
  simp only [fieldY, BitVec.extractLsb'_toNat, Nat.shiftRight_eq_div_pow]

theorem fieldN_toNat (op : Word) : (fieldN op).toNat = op.toNat % 16 := by
  simp [fieldN, BitVec.extractLsb'_toNat]

theorem append_nib_toNat {k : Nat} (a : BitVec k) (d : Nib) : (a ++ d).toNat = a.toNat * 16 + d.toNat := by
  rw [BitVec.toNat_append, ← Nat.shiftLeft_add_eq_or_of_lt d.isLt, Nat.shiftLeft_eq]

theorem digits_toNat (w x y z : Nib) :
    (digits w x y z).toNat = w.toNat * 4096 + x.toNat * 256 + y.toNat * 16 + z.toNat := by
  simp only [digits, append_nib_toNat]
  omega

@[simp] theorem fieldTop_digits (w x y z : Nib) : fieldTop (digits w x y z) = w := by
  have h := digits_toNat w x y z
  have hf := fieldTop_toNat (digits w x y z)
  bv_omega

@[simp] theorem fieldX_digits (w x y z : Nib) : fieldX (digits w x y z) = x := by
  have h := digits_toNat w x y z
  have hf := fieldX_toNat (digits w x y z)
  bv_omega

@[simp] theorem fieldY_digits (w x y z : Nib) : fieldY (digits w x y z) = y := by
  have h := digits_toNat w x y z
  have hf := fieldY_toNat (digits w x y z)
  bv_omega

@[simp] theorem fieldN_digits (w x y z : Nib) : fieldN (digits w x y z) = z := by
  have h := digits_toNat w x y z
  have hf := fieldN_toNat (digits w x y z)
  bv_omega

/-- A word is its four digits. -/
theorem word_eq_iff (a b : Word) :
    a = b ↔ fieldTop a = fieldTop b ∧ fieldX a = fieldX b ∧ fieldY a = fieldY b ∧ fieldN a = fieldN b := by
  refine ⟨by rintro rfl; simp, fun h => BitVec.eq_of_toNat_eq ?_⟩
  simp only [← BitVec.toNat_inj, fieldTop_toNat, fieldX_toNat, fieldY_toNat, fieldN_toNat] at h
  omega

theorem digits_eq_iff (w x y z : Nib) (op : Word) :
    digits w x y z = op ↔ w = fieldTop op ∧ x = fieldX op ∧ y = fieldY op ∧ z = fieldN op := by
  simp [word_eq_iff]

theorem digits_fields (op : Word) : digits (fieldTop op) (fieldX op) (fieldY op) (fieldN op) = op :=
  (digits_eq_iff _ _ _ _ op).2 ⟨rfl, rfl, rfl, rfl⟩

/-- `op[15:12]` and `op[11:0]` make up the word. -/
theorem append_fieldNnn_digits (w x y z : Nib) : w ++ fieldNnn (digits w x y z) = digits w x y z := by
  have h : fieldTop (digits w x y z) ++ fieldNnn (digits w x y z) = digits w x y z :=
    BitVec.extractLsb'_append_extractLsb'
  rwa [fieldTop_digits] at h

theorem digits_ret : digits 0x0#4 0x0#4 0xE#4 0xE#4 = 0x00EE#16 := rfl

/-! ## The dispatch table -/

/-- An `on` call hits an opcode when it hits each of the four digits. -/
theorem OnCall.hits_iff (c : OnCall) (op : Word) : c.hits op = true ↔
    fieldTop op &&& fieldTop c.mask = fieldTop c.pattern ∧ fieldX op &&& fieldX c.mask = fieldX c.pattern ∧
      fieldY op &&& fieldY c.mask = fieldY c.pattern ∧ fieldN op &&& fieldN c.mask = fieldN c.pattern := by
  rw [OnCall.hits, beq_iff_eq, word_eq_iff]
  simp only [fieldTop, fieldX, fieldY, fieldN, BitVec.extractLsb'_and]

theorem handlerAt_nil (op : Word) : handlerAt [] op = .invalid := rfl

/-- The last call that hits wins (48_dispatch R213). -/
theorem handlerAt_concat (table : List OnCall) (c : OnCall) (op : Word) :
    handlerAt (table ++ [c]) op = if c.hits op = true then c.handler else handlerAt table op := by
  simp only [handlerAt, List.reverse_append, List.reverse_singleton, List.singleton_append, List.find?_cons]
  cases c.hits op <;> rfl

/-- A slot holds the handler of a call that hits it, or no call hits it and it is invalid (48_dispatch R211, R213). -/
theorem handlerAt_cases (table : List OnCall) (op : Word) :
    (∃ c ∈ table, c.hits op = true ∧ handlerAt table op = c.handler) ∨
    (table.any (·.hits op) = false ∧ handlerAt table op = .invalid) := by
  cases h : table.reverse.find? (·.hits op) with
  | none =>
    exact .inr ⟨by simpa using h, by simp only [handlerAt, h]⟩
  | some c =>
    exact .inl ⟨c, List.mem_reverse.1 (List.mem_of_find?_eq_some h), List.find?_some (p := (OnCall.hits · op)) h,
      by simp only [handlerAt, h]⟩

/-- The table of the source's families, call by call. -/
theorem sourceFamilies_eq_concat : sourceFamilies = [] ++ [⟨0xF00F, 0x8001, .or⟩] ++ [⟨0xF00F, 0x8002, .and⟩] ++
    [⟨0xF00F, 0x8003, .xor⟩] ++ [⟨0xF00F, 0x8006, .shiftRight⟩] ++ [⟨0xF00F, 0x800E, .shiftLeft⟩] ++
    [⟨0xF000, 0xD000, .draw⟩] ++ [⟨0xF0FF, 0xF00A, .keyWait⟩] ++ [⟨0xF0FF, 0xF055, .store⟩] ++
    [⟨0xF0FF, 0xF065, .load⟩] ++ [⟨0xF000, 0x2000, .call⟩] ++ [⟨0xFFFF, 0x00EE, .ret⟩] := rfl

theorem nib_and_full (n : Nib) : n &&& 0xF#4 = n := by revert n; decide

/-- The families of 48_dispatch R216, told apart by their digits. -/
theorem handlerAt_sourceFamilies (op : Word) : handlerAt sourceFamilies op =
    if fieldTop op = 0x0 ∧ fieldX op = 0x0 ∧ fieldY op = 0xE ∧ fieldN op = 0xE then .ret
    else if fieldTop op = 0x2 then .call
    else if fieldTop op = 0xF ∧ fieldY op = 0x6 ∧ fieldN op = 0x5 then .load
    else if fieldTop op = 0xF ∧ fieldY op = 0x5 ∧ fieldN op = 0x5 then .store
    else if fieldTop op = 0xF ∧ fieldY op = 0x0 ∧ fieldN op = 0xA then .keyWait
    else if fieldTop op = 0xD then .draw
    else if fieldTop op = 0x8 ∧ fieldN op = 0xE then .shiftLeft
    else if fieldTop op = 0x8 ∧ fieldN op = 0x6 then .shiftRight
    else if fieldTop op = 0x8 ∧ fieldN op = 0x3 then .xor
    else if fieldTop op = 0x8 ∧ fieldN op = 0x2 then .and
    else if fieldTop op = 0x8 ∧ fieldN op = 0x1 then .or
    else .invalid := by
  rw [sourceFamilies_eq_concat]
  simp only [handlerAt_concat, handlerAt_nil, OnCall.hits_iff]
  generalize fieldTop op = w, fieldX op = x, fieldY op = y, fieldN op = z
  simp [nib_and_full, fieldTop, fieldX, fieldY, fieldN]

/-- Where no family hits, the opcode is unmapped (48_dispatch R214). -/
theorem decodeOpcode_unmapped {op : Word} (hwf : (Instr.c8Unmapped op).wf = true) :
    decodeOpcode op = .c8Unmapped op := by
  have hnone : sourceFamilies.any (·.hits op) = false := by simpa only [Instr.wf, Bool.not_eq_true'] using hwf
  rcases handlerAt_cases sourceFamilies op with ⟨c, hmem, hhits, -⟩ | ⟨-, h⟩
  · exact absurd hhits (List.any_eq_false.1 hnone c hmem)
  · rw [decodeOpcode, h]; rfl

theorem decodeChip8_encOpcode (op : Word) (rest : List Byte) :
    decodeChip8 (encOpcode op ++ rest) = .ok (decodeOpcode op, rest) := by
  simp only [encOpcode, List.cons_append, List.nil_append, decodeChip8, joinBytes_hi_lo]

/-- Each CHIP-8 constructor is read back by the handler of the family its opcode's digits name (48_dispatch R216). -/
theorem decodeChip8_encode {i : Instr} (hi : i.engine = .fastPath) (hwf : i.wf = true) (rest : List Byte) :
    decodeChip8 (encode i ++ rest) = .ok (i, rest) := by
  cases i
  case c8Or x y | c8And x y | c8Xor x y | c8ShiftRight x y | c8ShiftLeft x y | c8Draw x y n | c8KeyWait x | c8Store x |
      c8Load x =>
    simp [encode, decodeChip8_encOpcode, decodeOpcode, handlerAt_sourceFamilies, Handler.instr]
  case c8Return => exact decodeChip8_encOpcode 0x00EE#16 rest
  case c8Call nnn =>
    have htop : fieldTop (0x2#4 ++ nnn) = 2 := BitVec.extractLsb'_append_eq_left
    have hnnn : fieldNnn (0x2#4 ++ nnn) = nnn := BitVec.extractLsb'_append_eq_right
    simp [encode, decodeChip8_encOpcode, decodeOpcode, handlerAt_sourceFamilies, Handler.instr, htop, hnnn]
  case c8Unmapped op =>
    simp only [encode, decodeChip8_encOpcode, decodeOpcode_unmapped hwf]
  all_goals cases hi

/-- An opcode a family hits has the family's digits, and its handler's instruction keeps the others. -/
theorem sourceFamilies_good (op : Word) : ∀ c ∈ sourceFamilies, c.hits op = true →
    (c.handler.instr op).wf = true ∧ encode (c.handler.instr op) = encOpcode op := by
  have hdigits := digits_fields op
  simp only [sourceFamilies, List.forall_mem_cons, OnCall.hits_iff, Handler.instr, encode]
  generalize fieldTop op = w, fieldX op = x, fieldY op = y, fieldN op = z at hdigits ⊢
  subst hdigits
  simp +contextual [fieldTop, fieldX, fieldY, fieldN, nib_and_full, Instr.wf, append_fieldNnn_digits, digits_ret]

theorem decodeOpcode_good (op : Word) :
    (decodeOpcode op).wf = true ∧ encode (decodeOpcode op) = encOpcode op := by
  rcases handlerAt_cases sourceFamilies op with ⟨c, hmem, hhits, h⟩ | ⟨hnone, h⟩ <;> rw [decodeOpcode, h]
  · exact sourceFamilies_good op c hmem hhits
  · exact ⟨by simp only [Handler.instr, Instr.wf, hnone, Bool.not_false], rfl⟩

/-- The table of 30_encoding R73 counts the bytes of each opcode's entry. -/
theorem specLength_eq (op : Byte) : Slice0.specLength op = opcodeLength op := by
  revert op; decide

end Sys2Proof

namespace Sys2Proof.Slice0

open Sys2Proof.Machine

/-- Settles O1, engine by engine: each constructor's own lemma is a case of `decode1802_encode` or `decodeChip8_encode`. -/
theorem encodeThenDecodeGivesTheInstruction : Obligations.EncodeThenDecodeGivesTheInstruction := by
  intro i rest hwf
  cases hi : i.engine with
  | hardware => exact decode1802_encode hi hwf rest
  | fastPath => exact decodeChip8_encode hi hwf rest

/-- Settles O2: every entry of the CDP1802 map is good at its opcode (`formOf_good`), and what a family's handler makes of
an opcode keeps its digits (`decodeOpcode_good`). -/
theorem decodedBytesAreTheEncoding : Obligations.DecodedBytesAreTheEncoding := by
  intro e bytes rest i h
  cases e with
  | hardware =>
    cases bytes with
    | nil => cases h
    | cons op tail =>
      have hgood := formOf_good op
      rcases decode1802_ok_cases h with ⟨hf, rfl⟩ | ⟨mk, b, hf, rfl, rfl⟩ | ⟨mk, hi, lo, hf, rfl, rfl⟩ <;>
        rw [hf] at hgood
      · obtain ⟨hengine, hwf, hbytes⟩ := hgood
        exact ⟨hengine, hwf, by rw [hbytes]; rfl⟩
      · obtain ⟨hengine, hwf, hbytes⟩ := hgood b
        exact ⟨hengine, hwf, by rw [hbytes]; rfl⟩
      · obtain ⟨hengine, hwf, hbytes⟩ := hgood (joinBytes hi lo)
        rw [hiByte_joinBytes, loByte_joinBytes] at hbytes
        exact ⟨hengine, hwf, by rw [hbytes]; rfl⟩
  | fastPath =>
    rcases bytes with _ | ⟨hi, _ | ⟨lo, tail⟩⟩ <;> cases h
    obtain ⟨hwf, hbytes⟩ := decodeOpcode_good (joinBytes hi lo)
    refine ⟨Handler.instr_engine _ _, hwf, ?_⟩
    rw [hbytes, encOpcode, hiByte_joinBytes, loByte_joinBytes]
    rfl

/-- Settles O3: the length of R73's table is the size of the opcode's entry, and the decoder takes that entry's bytes. -/
theorem decodeTakesLengthBytes : Obligations.DecodeTakesLengthBytes := by
  intro op tail
  rw [specLength_eq, opcodeLength_eq]
  constructor
  · intro i rest h
    rcases decode1802_ok_cases h with ⟨hf, rfl⟩ | ⟨mk, b, hf, rfl, rfl⟩ | ⟨mk, hi, lo, hf, rfl, rfl⟩ <;>
      simp only [hf, Form.size, List.length_cons]
  · cases hf : formOf op with
    | alone i => exact iff_of_true ⟨i, tail, decode1802_alone tail hf⟩ (Nat.le_add_left 1 _)
    | withByte mk => rcases tail with _ | ⟨b, tail⟩ <;> simp [decode1802, hf, Form.size]
    | withWord mk => rcases tail with _ | ⟨hi, _ | ⟨lo, tail⟩⟩ <;> simp [decode1802, hf, Form.size]

/-- Settles O4, by running the decoders on the words. -/
theorem specWordsDecode : Obligations.SpecWordsDecode := by
  exact ⟨rfl, rfl, rfl, rfl, rfl, rfl, rfl, rfl, rfl, rfl, rfl, rfl, rfl, rfl, rfl, rfl⟩

end Sys2Proof.Slice0
end

section
/-! The choice of a `CoreStep` by frame position, the instruction it runs and the cycles that takes (30_encoding R79 to
R81; 60_exceptions R263, R273, R274, R277). -/

namespace Sys2Proof.Machine

/-! ## The CDP1861's requests by frame position -/

/-- Lines 78 and 79 (60_exceptions R273). -/
theorem intReq_iff (s : State) (c : Nat) :
    intReq s c = true ↔ s.displayEnabled = true ∧ 1092 ≤ c % 3668 ∧ c % 3668 ≤ 1119 := by
  simp only [intReq, inIntLines, videoLine, frameCycle, Config.cyclesPerFrame, Config.cyclesPerLine,
    Bool.and_eq_true, Bool.or_eq_true, beq_iff_eq]
  refine and_congr_right fun _ => ?_
  omega

/-- Line cycles 1 to 8 of lines 80 to 207 (60_exceptions R274). -/
theorem dmaOutReq_iff (s : State) (c : Nat) :
    dmaOutReq s c = true ↔ s.displayEnabled = true ∧ 1120 ≤ c % 3668 ∧ c % 3668 < 2912 ∧
      1 ≤ c % 3668 % 14 ∧ c % 3668 % 14 ≤ 8 := by
  simp only [dmaOutReq, inDisplayLines, Bool.and_eq_true, decide_eq_true_eq, and_assoc]
  simp only [videoLine, lineCycle, frameCycle, Config.cyclesPerFrame, Config.cyclesPerLine, Config.dmaStart,
    Config.dmaLen]
  refine and_congr_right fun _ => ?_
  omega

/-! ## The choice of a `CoreStep` -/

section
variable {s : State}

theorem nextCycle_dmaOut (hdma : dmaOutReq s s.cycles = true) : nextCycle s = .dmaOut := by
  simp only [nextCycle, dmaInReq, hdma, Bool.false_eq_true, if_false, if_true]

theorem nextCycle_interrupt (hdma : ¬ dmaOutReq s s.cycles = true) (hint : intReq s s.cycles = true)
    (hie : s.ie = true) : nextCycle s = .interrupt := by
  simp only [nextCycle, dmaInReq, hdma, hint, hie, Bool.false_eq_true, if_false, Bool.and_self, if_true]

/-- Without a request the idle bit decides. -/
theorem nextCycle_of_no_request (hdma : ¬ dmaOutReq s s.cycles = true)
    (hint : ¬ (intReq s s.cycles = true ∧ s.ie = true)) :
    nextCycle s = if s.idle = true then .idle else .instruction := by
  simp only [nextCycle, dmaInReq, hdma, Bool.and_eq_true, hint, Bool.false_eq_true, if_false]

theorem coreStep_dmaOut (h : nextCycle s = .dmaOut) : coreStep s = .next (countFrame s (dmaOutCycle s)) := by
  simp only [coreStep, h, mapNext]

theorem coreStep_interrupt (h : nextCycle s = .interrupt) :
    coreStep s = .next (countFrame s (interruptCycle s)) := by
  simp only [coreStep, h, mapNext]

theorem coreStep_idle (h : nextCycle s = .idle) :
    coreStep s = .next (countFrame s { s with cycles := s.cycles + 1 }) := by
  simp only [coreStep, h, mapNext]

theorem coreStep_instruction (h : nextCycle s = .instruction) :
    coreStep s = mapNext (countFrame s) (runInstruction s) := by
  simp only [coreStep, h]

end

/-! ## The instruction a backend step runs -/

/-- The decoder on the three bytes at `R[P]` reads the instruction a `CoreStep` runs (30_encoding R78). -/
theorem runInstruction_of_decode {s : State} {op : Byte} {i : Instr} {rest : List Byte}
    (hread : memRead s s.pc = .ok op) (hdecode : decode1802 [op, byteAhead s 1, byteAhead s 2] = .ok (i, rest)) :
    runInstruction s = exec i s := by
  rw [decode1802_three] at hdecode
  cases hdecode
  simp only [runInstruction, instructionAt, hread]

/-- Without a host call, a fault or a hold, the step of a hardware-accurate machine is the backend's. -/
theorem step_hardware {s : State} (haction : takeAction s = none) (hfault : s.fault = none)
    (hengine : s.cfg.engine = .hardware) (hheld : held s = false) : step s = backendStep s := by
  simp only [step, machineStep, haction, runStep, hfault, hheld, hengine, Bool.false_eq_true, if_false]

theorem takesPostCondition_eq_false {s : State} (h : s.phase = .ready ∨ s.cfg.fastForward = .run) :
    takesPostCondition s = false := by
  rcases h with h | h <;> simp [takesPostCondition, h]

/-! ## Machine cycles -/

/-- The digit `I` of an opcode decides its cycles (30_encoding R81). -/
theorem countCycles_fetched_cycles {s u : State} {op : Byte} (h : HwFrame (fetched op s) u) :
    (countCycles u).cycles = s.cycles + if op.toNat / 16 = 0xC then 3 else 2 := by
  have hi : u.i = 0xC#4 ↔ op.toNat / 16 = 0xC := by
    rw [h.i, ← BitVec.toNat_inj, ← hiNib_toNat]; rfl
  simp only [countCycles, h.cycles, hi]
  rfl

end Sys2Proof.Machine

namespace Sys2Proof.Slice0

open Sys2Proof.Machine

/-- Settles O40: the three questions of `nextCycle` are asked in that order, each by frame position. -/
theorem requestPriority : Obligations.RequestPriority := by
  intro s
  have hint : (s.displayEnabled = true ∧ 1092 ≤ s.cycles % 3668 ∧ s.cycles % 3668 ≤ 1119 ∧ s.ie = true) ↔
      intReq s s.cycles = true ∧ s.ie = true := by
    simp only [intReq_iff, and_assoc]
  dsimp only
  rw [← dmaOutReq_iff, hint]
  refine ⟨fun hdma => ?_, fun hdma ⟨hint, hie⟩ => ?_, fun hdma hint hidle => ?_, fun hdma hint hidle => ?_⟩
  · exact coreStep_dmaOut (nextCycle_dmaOut hdma)
  · exact coreStep_interrupt (nextCycle_interrupt hdma hint hie)
  · exact coreStep_idle (by rw [nextCycle_of_no_request hdma hint, hidle]; rfl)
  · exact coreStep_instruction (by rw [nextCycle_of_no_request hdma hint, hidle]; rfl)

/-- Settles O57: the execute part keeps `I`, which the fetch has set, and the cycle counter; a fault keeps the counter. -/
theorem instructionsTakeTwoOrThreeCycles : Obligations.InstructionsTakeTwoOrThreeCycles := by
  intro i s t hengine hfault h
  rcases exec_hardware_cases i hengine s with ⟨u, e, hframe⟩ | ⟨f, e⟩ <;> rw [e] at h <;> cases h
  · have hnone : (countCycles u).fault = none := hframe.fault.trans hfault
    rw [if_neg (not_not.2 hnone), countCycles_fetched_cycles hframe]
  · rw [enterFault_fault, if_pos (Option.some_ne_none f)]; rfl

/-- Settles O38: the `CoreStep` runs the decoded instruction, and `backendStep_eq` says what follows it. -/
theorem backendStepRunsTheDecodedInstruction : Obligations.BackendStepRunsTheDecodedInstruction := by
  intro s t op i rest haction hfault hengine hheld hphase hcycle hread hdecode hexec
  have hcore : coreStep s = .next (countFrame s t) := by
    rw [coreStep_instruction hcycle, runInstruction_of_decode hread hdecode, hexec]; rfl
  rw [step_hardware haction hfault hengine hheld, backendStep_eq hcore, takesPostCondition_eq_false hphase]
  rfl

end Sys2Proof.Slice0
end

section
/-! Register operations (40_register_ops R91 to R97). None accesses memory in its execute part, so each runs to its end:
five write one register after the fetch, two load a byte of one into `D`. -/

namespace Sys2Proof.Slice0

open Sys2Proof.Machine

/-! ## An execute part that runs to its end -/

section
variable {s u : State} {op : Byte}

/-- The frame of an execute part, in the statements' vocabulary; the digit `I` decides the cycles (30_encoding R80, R81). -/
theorem ran_of_hwFrame {draws : Nat} (h : HwFrame (fetched op s) u) (hdraws : u.draws = s.draws + draws) :
    Ran op (if op.toNat / 16 = 0xC then 3 else 2) draws s (countCycles u) :=
  ⟨h.i, h.n, countCycles_fetched_cycles h, hdraws,
    ⟨h.v, h.i8, h.pc8, h.stack, h.sp8, h.dt, h.st, h.cycles8, h.frames8, h.clears8, h.execMode, h.cpuState⟩,
    ⟨h.fault, h.stepOverDepth, h.breakpoints, h.cfg, h.program, h.phase, h.inTick, h.frameLeft, h.inbox⟩⟩

theorem ran_two_cycles {draws : Nat} (hop : op.toNat / 16 ≠ 0xC) (h : HwFrame (fetched op s) u)
    (hdraws : u.draws = s.draws + draws) : Ran op 2 draws s (countCycles u) := by
  simpa only [if_neg hop] using ran_of_hwFrame h hdraws

theorem onlyRegs_setReg (n : Nib) (w : Word) : OnlyRegs s (countCycles ((fetched op s).setReg n w)) :=
  ⟨rfl, rfl, ⟨rfl, rfl, rfl, rfl, rfl, rfl⟩, ⟨rfl, rfl, rfl, rfl⟩, ⟨rfl, fun _ => rfl⟩⟩

theorem onlyD_setD (b : Byte) : OnlyD s (countCycles { fetched op s with d := b }) :=
  ⟨rfl, ⟨rfl, rfl, rfl, rfl, rfl, rfl⟩, ⟨rfl, rfl, rfl, rfl⟩, ⟨rfl, fun _ => rfl⟩⟩

end

/-- An opcode whose first digit is not 0xC has `I` other than 0xC. -/
theorem joinNibs_div_ne {a : Nib} (n : Nib) (ha : a.toNat ≠ 0xC) : (joinNibs a n).toNat / 16 ≠ 0xC := by
  rwa [← hiNib_toNat, hiNib_joinNibs]

/-! ## The two forms of a register operation -/

section
variable {i : Instr} {s : State} {op : Byte} {n : Nib}

/-- An instruction that applies `f` to one register after the fetch: what `f` reads is the register the fetch left, the
advanced program counter for `n = P`. -/
theorem gives_modifyReg (f : Word → Word) {Q : State → Prop} (hop : op.toNat / 16 ≠ 0xC)
    (hexec : exec i s = .next (countCycles ((fetched op s).setReg n (f ((fetched op s).reg n)))))
    (hQ : ∀ t : State, (∀ k, t.reg k = if k = n then f (stepped s 1 k) else stepped s 1 k) → Q t) :
    Gives i s (fun t => Ran op 2 0 s t ∧ OnlyRegs s t ∧ Q t) := by
  refine ⟨_, hexec, ran_two_cycles hop ⟨rfl, .inl rfl⟩ rfl, onlyRegs_setReg _ _, hQ _ fun k => ?_⟩
  simp only [reg_countCycles, reg_setReg, reg_fetched_eq_stepped]
  split_ifs with hk
  · rw [hk]
  · rfl

/-- An instruction that loads into `D` what `g` takes from one register after the fetch. -/
theorem gives_loadD (g : Word → Byte) (hop : op.toNat / 16 ≠ 0xC)
    (hexec : exec i s = .next (countCycles { fetched op s with d := g ((fetched op s).reg n) })) :
    Gives i s (fun t => Ran op 2 0 s t ∧ OnlyD s t ∧ (∀ k, t.reg k = stepped s 1 k) ∧
      t.d.toNat = (g (stepped s 1 n)).toNat) := by
  refine ⟨_, hexec, ran_two_cycles hop ⟨rfl, .inl rfl⟩ rfl, onlyD_setD _, fun k => ?_, ?_⟩
  · exact reg_fetched_eq_stepped s op k
  · rw [← reg_fetched_eq_stepped s op n]; rfl

end

/-- Settles O8: each of the three is `gives_modifyReg` at its register, and adding or taking away 0 changes no other. -/
theorem incrementAndDecrement : Obligations.IncrementAndDecrement := by
  intro s n
  refine ⟨gives_modifyReg (n := n) (· + 1) (joinNibs_div_ne n (by decide)) rfl fun t h k => ?_,
    gives_modifyReg (n := n) (· - 1) (joinNibs_div_ne n (by decide)) rfl fun t h k => ?_,
    gives_modifyReg (n := s.x) (· + 1) (by decide) rfl fun t h k => ?_⟩
  all_goals rw [h]; split_ifs <;> simp

/-- Settles O9: `D` takes `loByte` or `hiByte` of the register the fetch left. -/
theorem getRegisterBytes : Obligations.GetRegisterBytes := by
  intro s n
  constructor
  · have hglo := gives_loadD (n := n) loByte (joinNibs_div_ne n (by decide)) (rfl : exec (.glo n) s = _)
    rwa [loByte_toNat] at hglo
  · have hghi := gives_loadD (n := n) hiByte (joinNibs_div_ne n (by decide)) (rfl : exec (.ghi n) s = _)
    rwa [hiByte_toNat] at hghi

/-- Settles O10: the register takes `D` joined with the byte it keeps. -/
theorem putRegisterBytes : Obligations.PutRegisterBytes := by
  intro s n
  refine ⟨gives_modifyReg (n := n) (fun w => joinBytes (hiByte w) s.d) (joinNibs_div_ne n (by decide)) rfl
      fun t h => ⟨fun k hk => by rw [h, if_neg hk], ?_⟩,
    gives_modifyReg (n := n) (fun w => joinBytes s.d (loByte w)) (joinNibs_div_ne n (by decide)) rfl
      fun t h => ⟨fun k hk => by rw [h, if_neg hk], ?_⟩⟩
  · rw [h, if_pos rfl, joinBytes_toNat, hiByte_toNat]
  · rw [h, if_pos rfl, joinBytes_toNat, loByte_toNat]

end Sys2Proof.Slice0
end

section
/-! Memory reference (41_memory_reference R101 to R107). An answered access lets the instruction run to its end: a load
writes `D`, a store one byte of memory, and either steps at most one register besides. -/

namespace Sys2Proof.Slice0

open Sys2Proof.Machine

section
variable {i : Instr} {s w : State} {op v : Byte} {n : Nib}

/-! ## Registers stepped by the execute part -/

theorem reg_setReg_add_fetched (op : Byte) (hr : w.r = (fetched op s).r) (c : Word) (k : Nib) :
    (w.setReg n (w.reg n + c)).reg k = stepped s 1 k + (if k = n then c else 0) := by
  rw [reg_setReg, reg_of_r hr, reg_of_r hr, reg_fetched_eq_stepped, reg_fetched_eq_stepped]
  split_ifs with hk
  · rw [hk]
  · exact (BitVec.add_zero _).symm

theorem reg_setReg_sub_fetched (op : Byte) (hr : w.r = (fetched op s).r) (c : Word) (k : Nib) :
    (w.setReg n (w.reg n - c)).reg k = stepped s 1 k - (if k = n then c else 0) := by
  rw [reg_setReg, reg_of_r hr, reg_of_r hr, reg_fetched_eq_stepped, reg_fetched_eq_stepped]
  split_ifs with hk
  · rw [hk]
  · exact (BitVec.sub_zero _).symm

/-- `R[P]` steps over the opcode at the fetch and over the operand of an immediate form after it. -/
theorem reg_setPc_fetched (s : State) (op : Byte) (k : Nib) :
    ((fetched op s).setPc ((fetched op s).pc + 1)).reg k = stepped s 2 k := by
  rw [reg_setPc, pc_fetched, reg_fetched_eq_stepped, fetched_p, stepped, stepped]
  split_ifs with hk
  · rw [hk, State.pc, BitVec.add_assoc]; rfl
  · rfl

/-! ## Answered accesses of an execute part -/

theorem memRead_reg_fetched_ok (h : memRead s (stepped s 1 n) = .ok v) :
    memRead (fetched op s) ((fetched op s).reg n) = .ok v := by
  rw [reg_fetched_eq_stepped, memRead_fetched, h]

theorem memRead_pc_fetched_ok (h : memRead s (s.pc + 1) = .ok v) :
    memRead (fetched op s) (fetched op s).pc = .ok v := by
  rw [pc_fetched, memRead_fetched, h]

/-- A write that may go through writes memory only, and stores the byte as `Stored` says (20_memory R51). -/
theorem memWrite_of_writable {a : Word} (v : Byte) (h : Writable s a) :
    ∃ m, memWrite s a v = .ok { s with mem := m } ∧ Stored s { s with mem := m } a v := by
  rcases memWrite_cases s a v with ⟨hram, e⟩ | ⟨hrom, -, e⟩ | ⟨hram, hrom, -⟩
  · refine ⟨_, e, rfl, fun _ => ⟨Memory.read_write_same _ _ _, fun b hb => Memory.read_write_ne _ _ _ _ hb⟩,
      fun hout => ?_⟩
    rw [hram] at hout
    cases hout
  · refine ⟨s.mem, e, rfl, fun hram => ?_, fun _ _ => rfl⟩
    rw [not_inRom_of_inRam hram] at hrom
    cases hrom
  · exfalso
    rcases hrom with hrom | hfault
    · simp [Writable, hram, hrom] at h
    · simp [Writable, hram, hfault] at h

theorem memWrite_reg_fetched_ok (op v : Byte) (h : Writable s (stepped s 1 n)) :
    ∃ m, memWrite (fetched op s) ((fetched op s).reg n) v = .ok { fetched op s with mem := m } ∧
      Stored s { fetched op s with mem := m } (stepped s 1 n) v := by
  rw [reg_fetched_eq_stepped]
  exact memWrite_of_writable (s := fetched op s) v h

/-! ## The two forms of a memory reference -/

/-- An instruction whose execute part writes `D` and registers only. -/
theorem gives_loadedByte {u : State} {regs : Nib → Word} (hop : op.toNat / 16 ≠ 0xC)
    (hexec : exec i s = .next (countCycles u)) (hu : u = { fetched op s with d := v, r := u.r })
    (hregs : ∀ k, u.reg k = regs k) :
    Gives i s (fun t => Ran op 2 0 s t ∧ OnlyD s t ∧ t.d = v ∧ ∀ k, t.reg k = regs k) := by
  rw [hu] at hexec hregs
  exact ⟨_, hexec, ran_two_cycles hop ⟨rfl, .inl rfl⟩ rfl,
    ⟨rfl, ⟨rfl, rfl, rfl, rfl, rfl, rfl⟩, ⟨rfl, rfl, rfl, rfl⟩, ⟨rfl, fun _ => rfl⟩⟩, rfl, hregs⟩

/-- An instruction whose execute part writes memory, by one answered `MemWrite`, and registers only. -/
theorem gives_storedByte {u : State} {m : Memory} {a b : Word} {regs : Nib → Word} (hop : op.toNat / 16 ≠ 0xC)
    (hwrite : memWrite (fetched op s) b v = .ok { fetched op s with mem := m })
    (hstored : Stored s { fetched op s with mem := m } a v)
    (hexec : exec i s = .next (countCycles u)) (hu : u = { fetched op s with mem := m, r := u.r })
    (hregs : ∀ k, u.reg k = regs k) :
    Gives i s (fun t => Ran op 2 0 s t ∧ t.d = s.d ∧ t.df = s.df ∧ ControlSame s t ∧ DevicesSame s t ∧
      Stored s t a v ∧ ∀ k, t.reg k = regs k) := by
  rw [hu] at hexec hregs
  exact ⟨_, hexec, ran_two_cycles hop ((HwFrame.memWrite hwrite).trans_rest rfl rfl) rfl, rfl, rfl,
    ⟨rfl, rfl, rfl, rfl, rfl, rfl⟩, ⟨rfl, rfl, rfl, rfl⟩, hstored, hregs⟩

end

/-- Settles O13: the answered read gives the state the execute part leaves, and `gives_loadedByte` its frame. -/
theorem loadsReadAByte : Obligations.LoadsReadAByte := by
  intro s n v
  refine ⟨fun h => ?ldn, fun h => ?lda, fun h => ?ldx, fun h => ?ldxa, fun h => ?ldi⟩
  case ldn =>
    exact gives_loadedByte (joinNibs_div_ne n (by decide))
      (instructionStep_ok (loadInto_ok _ _ (memRead_reg_fetched_ok h))) rfl
      (reg_fetched_eq_stepped s (joinNibs 0x0#4 n))
  case lda =>
    exact gives_loadedByte (joinNibs_div_ne n (by decide))
      (instructionStep_ok (loadInto_ok _ _ (memRead_reg_fetched_ok h))) rfl
      (reg_setReg_add_fetched (joinNibs 0x4#4 n) rfl 1)
  case ldx =>
    exact gives_loadedByte (by decide)
      (instructionStep_ok (loadInto_ok _ _ (memRead_reg_fetched_ok h))) rfl
      (reg_fetched_eq_stepped s 0xF0#8)
  case ldxa =>
    exact gives_loadedByte (by decide)
      (instructionStep_ok (loadInto_ok _ _ (memRead_reg_fetched_ok h))) rfl
      (reg_setReg_add_fetched 0x72#8 rfl 1)
  case ldi =>
    exact gives_loadedByte (by decide)
      (instructionStep_ok (loadImmediate_ok v (memRead_pc_fetched_ok h))) rfl (reg_setPc_fetched s 0xF8#8)

/-- Settles O14: the write goes through (`memWrite_reg_fetched_ok`), and `gives_storedByte` says what else stays. -/
theorem storesWriteOneByte : Obligations.StoresWriteOneByte := by
  intro s n
  refine ⟨fun h => ?str, fun h => ?stxd⟩
  case str =>
    obtain ⟨m, hwrite, hstored⟩ := memWrite_reg_fetched_ok (joinNibs 0x5#4 n) s.d h
    exact gives_storedByte (joinNibs_div_ne n (by decide)) hwrite hstored
      (instructionStep_ok (storeAt_ok _ hwrite)) rfl (reg_fetched_eq_stepped s (joinNibs 0x5#4 n))
  case stxd =>
    obtain ⟨m, hwrite, hstored⟩ := memWrite_reg_fetched_ok 0x73#8 s.d h
    exact gives_storedByte (by decide) hwrite hstored
      (instructionStep_ok (storeAt_ok _ hwrite)) rfl (reg_setReg_sub_fetched 0x73#8 rfl 1)

end Sys2Proof.Slice0
end

section
/-! Logic and shifts (42_logic_shift R110 to R120). A logic form combines `D` with an answered operand bit by bit; a
shift works on `D` and `DF` alone. -/

namespace Sys2Proof.Slice0

open Sys2Proof.Machine

/-! ## Logic -/

section
variable {s : State} {v : Byte} {f : Byte → State → State} {g : Byte → Byte → Byte}
  {bit : Bool → Bool → Bool}

/-- Whatever form the operand has: an instruction that leaves `g D v` in `D`, where `g` is `bit` on every bit. -/
theorem gives_logic {u : State} {i : Instr} {op : Byte} {regs : Nib → Word} (hop : op.toNat / 16 ≠ 0xC)
    (hg : ∀ a b j, (g a b).getLsbD j = bit (a.getLsbD j) (b.getLsbD j))
    (hexec : exec i s = .next (countCycles u)) (hu : u = { fetched op s with d := g s.d v, r := u.r })
    (hregs : ∀ k, u.reg k = regs k) :
    Gives i s (fun t => Ran op 2 0 s t ∧ OnlyD s t ∧ (∀ k, t.reg k = regs k) ∧
      ∀ j, j < 8 → t.d.getLsbD j = bit (s.d.getLsbD j) (v.getLsbD j)) := by
  obtain ⟨t, hnext, hran, honly, hd, hregs⟩ := gives_loadedByte hop hexec hu hregs
  exact ⟨t, hnext, hran, honly, hregs, fun j _ => by rw [hd, hg]⟩

/-- The register form and the immediate form of one operation: they differ in where the operand is read. -/
theorem gives_logicForms {iX iImm : Instr} {opX opImm : Byte} (hopX : opX.toNat / 16 ≠ 0xC)
    (hopImm : opImm.toNat / 16 ≠ 0xC) (hf : ∀ m u, f m u = { u with d := g u.d m })
    (hg : ∀ a b j, (g a b).getLsbD j = bit (a.getLsbD j) (b.getLsbD j))
    (hX : exec iX s = instructionStep opX (fun u => withX f u) s)
    (hImm : exec iImm s = instructionStep opImm (fun u => withImmediate v f u) s) :
    (memRead s (stepped s 1 s.x) = .ok v →
      Gives iX s (fun t => Ran opX 2 0 s t ∧ OnlyD s t ∧ (∀ k, t.reg k = stepped s 1 k) ∧
        ∀ j, j < 8 → t.d.getLsbD j = bit (s.d.getLsbD j) (v.getLsbD j))) ∧
    (memRead s (s.pc + 1) = .ok v →
      Gives iImm s (fun t => Ran opImm 2 0 s t ∧ OnlyD s t ∧ (∀ k, t.reg k = stepped s 2 k) ∧
        ∀ j, j < 8 → t.d.getLsbD j = bit (s.d.getLsbD j) (v.getLsbD j))) := by
  constructor
  · intro h
    rw [instructionStep_ok (withX_ok f (memRead_reg_fetched_ok h)), hf] at hX
    exact gives_logic hopX hg hX rfl (reg_fetched_eq_stepped s opX)
  · intro h
    rw [instructionStep_ok (withImmediate_ok f (memRead_pc_fetched_ok h)), hf] at hImm
    exact gives_logic hopImm hg hImm rfl (reg_setPc_fetched s opImm)

end

/-! ## Shifts -/

/-- The byte a shift brings the incoming bit `c` in with: bit `k` is `c`, the others are 0. -/
theorem getLsbD_incomingBit (c : Bool) {k : Nat} (hk : k < 8) (j : Nat) :
    (if c then BitVec.twoPow 8 k else 0#8).getLsbD j = (c && decide (k = j)) := by
  cases c
  · exact BitVec.getLsbD_zero
  · simp [BitVec.getLsbD_twoPow, hk]

theorem shiftRight_bits (top : Bool) (s : State) : (shiftRight top s).d.getLsbD 7 = top ∧
    ∀ j, j < 7 → (shiftRight top s).d.getLsbD j = s.d.getLsbD (j + 1) := by
  have hbit (j : Nat) : (shiftRight top s).d.getLsbD j = (s.d.getLsbD (1 + j) || (top && decide (7 = j))) := by
    rw [← getLsbD_incomingBit top (by decide), ← BitVec.getLsbD_ushiftRight]
    exact BitVec.getLsbD_or
  constructor
  · rw [hbit, BitVec.getLsbD_of_ge _ _ (by decide)]
    simp
  · intro j hj
    simp [hbit, Nat.add_comm, hj.ne']

theorem shiftLeft_bits (low : Bool) (s : State) : (shiftLeft low s).d.getLsbD 0 = low ∧
    ∀ j, j < 7 → (shiftLeft low s).d.getLsbD (j + 1) = s.d.getLsbD j := by
  have hbit (j : Nat) : (shiftLeft low s).d.getLsbD j = ((s.d <<< 1).getLsbD j || (low && decide (0 = j))) := by
    rw [← getLsbD_incomingBit low (by decide)]
    exact BitVec.getLsbD_or
  constructor
  · rw [hbit, BitVec.getLsbD_shiftLeft]
    simp
  · intro j hj
    rw [hbit, BitVec.getLsbD_shiftLeft]
    simp [Nat.succ_lt_succ hj]

section
variable {s : State} {op b : Byte} {c : Bool} {i : Instr}

/-- An instruction whose execute part writes `D` and `DF` only. -/
theorem gives_shifted {Q : State → Prop} (hop : op.toNat / 16 ≠ 0xC)
    (hexec : exec i s = .next (countCycles { fetched op s with d := b, df := c }))
    (hQ : ∀ t : State, t.d = b → t.df = c → Q t) :
    Gives i s (fun t => Ran op 2 0 s t ∧ OnlyDDf s t ∧ (∀ k, t.reg k = stepped s 1 k) ∧ Q t) :=
  ⟨_, hexec, ran_two_cycles hop ⟨rfl, .inl rfl⟩ rfl,
    ⟨⟨rfl, rfl, rfl, rfl, rfl, rfl⟩, ⟨rfl, rfl, rfl, rfl⟩, ⟨rfl, fun _ => rfl⟩⟩,
    reg_fetched_eq_stepped s op, hQ _ rfl rfl⟩

theorem gives_shiftRight {top : Bool} (hop : op.toNat / 16 ≠ 0xC)
    (hexec : exec i s = .next (countCycles (shiftRight top (fetched op s)))) :
    Gives i s (fun t => Ran op 2 0 s t ∧ OnlyDDf s t ∧ (∀ k, t.reg k = stepped s 1 k) ∧
      t.df = s.d.getLsbD 0 ∧ t.d.getLsbD 7 = top ∧ ∀ j, j < 7 → t.d.getLsbD j = s.d.getLsbD (j + 1)) :=
  gives_shifted hop hexec fun t hd hdf => by
    rw [hd, hdf]
    exact ⟨rfl, shiftRight_bits top (fetched op s)⟩

theorem gives_shiftLeft {low : Bool} (hop : op.toNat / 16 ≠ 0xC)
    (hexec : exec i s = .next (countCycles (shiftLeft low (fetched op s)))) :
    Gives i s (fun t => Ran op 2 0 s t ∧ OnlyDDf s t ∧ (∀ k, t.reg k = stepped s 1 k) ∧
      t.df = s.d.getLsbD 7 ∧ t.d.getLsbD 0 = low ∧ ∀ j, j < 7 → t.d.getLsbD (j + 1) = s.d.getLsbD j) :=
  gives_shifted hop hexec fun t hd hdf => by
    rw [hd, hdf]
    exact ⟨rfl, shiftLeft_bits low (fetched op s)⟩

end

/-- Settles O16: each row is `gives_logicForms` at its bitwise operation. -/
theorem logicOnD : Obligations.LogicOnD := by
  intro s v row hrow
  simp only [List.mem_cons, List.not_mem_nil, or_false] at hrow
  obtain rfl | rfl | rfl := hrow
  · exact gives_logicForms (f := orD) (by decide) (by decide) (fun _ _ => rfl)
      (fun _ _ _ => BitVec.getLsbD_or) rfl rfl
  · exact gives_logicForms (f := andD) (by decide) (by decide) (fun _ _ => rfl)
      (fun _ _ _ => BitVec.getLsbD_and) rfl rfl
  · exact gives_logicForms (f := xorD) (by decide) (by decide) (fun _ _ => rfl)
      (fun _ _ _ => BitVec.getLsbD_xor) rfl rfl

/-- Settles O17: SHR and SHL bring in 0, SHRC and SHLC the `DF` from before, which the fetch keeps. -/
theorem shiftsMoveOneBit : Obligations.ShiftsMoveOneBit := fun _ =>
  ⟨gives_shiftRight (by decide) rfl, gives_shiftRight (by decide) rfl,
    gives_shiftLeft (by decide) rfl, gives_shiftLeft (by decide) rfl⟩

end Sys2Proof.Slice0
end

section
/-! Arithmetic (43_arithmetic R125 to R137). Every form is the sum `add3` of two bytes and a carry, `D` or an answered
operand among them; a difference is the sum with the complement of the byte taken away. -/

namespace Sys2Proof.Slice0

open Sys2Proof.Machine

/-! ## The sum and what it means as a difference -/

theorem bit_eq_toNat (c : Bool) : bit c = c.toNat := by cases c <;> rfl

theorem sumResult_add3 (a b : Byte) (c : Bool) (s : State) : SumResult a b c (add3 a b c s) := by
  simp [SumResult, add3, sum3, bit_eq_toNat]

/-- `~v` is `255 - v`, so `u + ~v + c` is `u - v - (1 - c) + 256`: its carry says that nothing was borrowed. -/
theorem SumResult.difference (u v : Byte) (c : Bool) (t : State) (h : SumResult u (~~~v) c t) :
    DifferenceResult u v c t := by
  obtain ⟨hd, hdf⟩ := h
  have hnot : (~~~v).toNat = 255 - v.toNat := BitVec.toNat_not
  have hv : v.toNat < 256 := v.isLt
  have hc : c.toNat ≤ 1 := c.toNat_le
  rw [hnot] at hd hdf
  constructor
  · omega
  · rw [hdf]
    omega

/-! ## The two forms of a sum -/

section
variable {s : State} {a b v : Byte} {c : Bool} {f : State → Byte → State → State} {Q : State → Prop}

/-- Whatever form the operand has: an instruction whose execute part adds, after stepping registers only. -/
theorem gives_add3 {i : Instr} {op : Byte} {u : State} {regs : Nib → Word} (hop : op.toNat / 16 ≠ 0xC)
    (hexec : exec i s = .next (countCycles (add3 a b c u))) (hu : u = { fetched op s with r := u.r })
    (hregs : ∀ k, u.reg k = regs k) (hQ : ∀ t, SumResult a b c t → Q t) :
    Gives i s (fun t => Ran op 2 0 s t ∧ OnlyDDf s t ∧ Q t ∧ ∀ k, t.reg k = regs k) := by
  rw [hu] at hexec hregs
  exact ⟨_, hexec, ran_two_cycles hop ⟨rfl, .inl rfl⟩ rfl,
    ⟨⟨rfl, rfl, rfl, rfl, rfl, rfl⟩, ⟨rfl, rfl, rfl, rfl⟩, ⟨rfl, fun _ => rfl⟩⟩,
    hQ _ (sumResult_add3 a b c s), hregs⟩

/-- The register form and the immediate form of one operation: `f` takes its carry-in from the state the fetch left, the
operand, and the state it adds in, which for the immediate form has stepped over the operand. -/
theorem gives_add3Forms {iX iImm : Instr} {opX opImm : Byte} (hopX : opX.toNat / 16 ≠ 0xC)
    (hopImm : opImm.toNat / 16 ≠ 0xC)
    (hX : exec iX s = instructionStep opX (fun u => withX (f u) u) s)
    (hImm : exec iImm s = instructionStep opImm (fun u => withImmediate v (f u) u) s)
    (hf : ∀ op r, f (fetched op s) v { fetched op s with r := r } = add3 a b c { fetched op s with r := r })
    (hQ : ∀ t, SumResult a b c t → Q t) :
    (memRead s (stepped s 1 s.x) = .ok v →
      Gives iX s (fun t => Ran opX 2 0 s t ∧ OnlyDDf s t ∧ Q t ∧ ∀ k, t.reg k = stepped s 1 k)) ∧
    (memRead s (s.pc + 1) = .ok v →
      Gives iImm s (fun t => Ran opImm 2 0 s t ∧ OnlyDDf s t ∧ Q t ∧ ∀ k, t.reg k = stepped s 2 k)) := by
  constructor
  · intro h
    have hexec := hX.trans (instructionStep_ok (withX_ok _ (memRead_reg_fetched_ok h)))
    exact gives_add3 hopX (hf opX _ ▸ hexec) rfl (reg_fetched_eq_stepped s opX) hQ
  · intro h
    have hexec := hImm.trans (instructionStep_ok (withImmediate_ok _ (memRead_pc_fetched_ok h)))
    exact gives_add3 hopImm (hf opImm _ ▸ hexec) rfl (reg_setPc_fetched s opImm) hQ

end

/-- Settles O18: ADD and ADI carry 0 in, ADC and ADCI the `DF` from before, which the fetch keeps. -/
theorem additionsWriteSumAndCarry : Obligations.AdditionsWriteSumAndCarry := by
  intro s v
  obtain ⟨hadd, hadi⟩ := gives_add3Forms (iX := .add) (iImm := .adi v) (f := fun _ => addM false)
    (Q := SumResult v s.d false) (by decide) (by decide) rfl rfl (fun _ _ => rfl) (fun _ => id)
  obtain ⟨hadc, hadci⟩ := gives_add3Forms (iX := .adc) (iImm := .adci v) (f := fun u => addM u.df)
    (Q := SumResult v s.d s.df) (by decide) (by decide) rfl rfl (fun _ _ => rfl) (fun _ => id)
  exact ⟨fun h => ⟨hadd h, hadc h⟩, fun h => ⟨hadi h, hadci h⟩⟩

/-- Settles O19: each form adds the complement of the byte taken away (`SumResult.difference`); the forms without borrow
carry 1 in, those with borrow the `DF` from before. -/
theorem subtractionsWriteDifferenceAndBorrow : Obligations.SubtractionsWriteDifferenceAndBorrow := by
  intro s v
  obtain ⟨hsd, hsdi⟩ := gives_add3Forms (iX := .sd) (iImm := .sdi v) (f := fun _ => subFromM true)
    (by decide) (by decide) rfl rfl (fun _ _ => rfl) (SumResult.difference v s.d true)
  obtain ⟨hsdb, hsdbi⟩ := gives_add3Forms (iX := .sdb) (iImm := .sdbi v) (f := fun u => subFromM u.df)
    (by decide) (by decide) rfl rfl (fun _ _ => rfl) (SumResult.difference v s.d s.df)
  obtain ⟨hsm, hsmi⟩ := gives_add3Forms (iX := .sm) (iImm := .smi v) (f := fun _ => subM true)
    (by decide) (by decide) rfl rfl (fun _ _ => rfl) (SumResult.difference s.d v true)
  obtain ⟨hsmb, hsmbi⟩ := gives_add3Forms (iX := .smb) (iImm := .smbi v) (f := fun u => subM u.df)
    (by decide) (by decide) rfl rfl (fun _ _ => rfl) (SumResult.difference s.d v s.df)
  exact ⟨fun h => ⟨hsd h, hsdb h, hsm h, hsmb h⟩, fun h => ⟨hsdi h, hsdbi h, hsmi h, hsmbi h⟩⟩

end Sys2Proof.Slice0
end

section
/-! Short branches (44_short_branch R145 to R161). Every row of the table is the execute part `shortBranch` after the fetch
and the row's draws; whatever it decides, it moves `R[P]` only. -/

namespace Sys2Proof.Machine

/-! ## What a short branch answers -/

theorem joinBytes_eq_ofNat (hi lo : Byte) : joinBytes hi lo = BitVec.ofNat 16 (hi.toNat * 256 + lo.toNat) := by
  rw [← joinBytes_toNat, BitVec.ofNat_toNat, BitVec.setWidth_eq]

/-- On a readable operand the condition alone decides where `R[P]` goes: into the page of the operand byte, or past it. -/
theorem shortBranch_readable {s : State} {v : Byte} (cond : Bool) (addr : Byte) (h : memRead s s.pc = .ok v) :
    shortBranch cond addr s =
      .ok (s.setPc (if cond then BitVec.ofNat 16 (s.pc.toNat / 256 * 256 + addr.toNat) else s.pc + 1)) := by
  rw [← hiByte_toNat, ← joinBytes_eq_ofNat]
  rcases shortBranch_cases cond addr s with ⟨rfl, -, e⟩ | ⟨rfl, e⟩ | ⟨f, -, hfault, -⟩
  · exact e
  · exact e
  · rw [h] at hfault
    cases hfault

/-- Not taken, it steps over the operand byte, readable or not. -/
theorem shortBranch_false (addr : Byte) (s : State) : shortBranch false addr s = .ok (s.setPc (s.pc + 1)) := by
  simpa using shortBranch_cases false addr s

theorem shortBranch_true_unreadable {s : State} {f : FaultInfo} (addr : Byte) (h : memRead s s.pc = .error f) :
    shortBranch true addr s = .error f := by simpa [h] using shortBranch_cases true addr s

end Sys2Proof.Machine

namespace Sys2Proof.Slice0

open Sys2Proof.Machine

/-! ## An instruction that moves the program counter -/

/-- After the fetch `R[P]` alone is written, and `draws` free values are taken; the opcode decides the cycles. -/
theorem gives_setPc {i : Instr} {s : State} {op : Byte} {draws cyc : Nat} {w : Word} {Q : State → Prop}
    (hcyc : (if op.toNat / 16 = 0xC then 3 else 2) = cyc)
    (hexec : exec i s = .next (countCycles ({ fetched op s with draws := s.draws + draws }.setPc w)))
    (hQ : ∀ t : State, (∀ k, t.reg k = if k = s.p then w else s.reg k) → Q t) :
    Gives i s (fun t => Ran op cyc draws s t ∧ OnlyRegs s t ∧ Q t) := by
  refine ⟨_, hexec, hcyc ▸ ran_of_hwFrame ⟨rfl, .inl rfl⟩ rfl,
    ⟨rfl, rfl, ⟨rfl, rfl, rfl, rfl, rfl, rfl⟩, ⟨rfl, rfl, rfl, rfl⟩, ⟨rfl, fun _ => rfl⟩⟩, hQ _ fun k => ?_⟩
  have hr : (countCycles ({ fetched op s with draws := s.draws + draws }.setPc w)).reg k =
      ((fetched op s).setPc w).reg k := rfl
  rw [hr, reg_setPc, reg_fetched, fetched_p]
  split_ifs <;> rfl

/-! ## The rows of the table -/

/-- The state a row's `shortBranch` runs in: fetched, and the row's free values taken. -/
def branchState (s : State) (b : Branch Byte) : State := { fetched b.op s with draws := s.draws + b.draws }

theorem branchState_pc (s : State) (b : Branch Byte) : (branchState s b).pc = s.pc + 1 := pc_fetched s b.op

theorem memRead_branchState (s : State) (b : Branch Byte) :
    memRead (branchState s b) (branchState s b).pc = memRead s (s.pc + 1) := by
  rw [branchState_pc]; rfl

section
variable {s : State} {b : Branch Byte} {addr : Byte} {w : Word} {f : FaultInfo}

theorem op_of_mem_shortBranches (hb : b ∈ shortBranches s) : b.op.toNat / 16 = 3 := by
  have hall : ∀ c ∈ shortBranches s, c.op.toNat / 16 = 3 := by simp [shortBranches]
  exact hall b hb

/-- Row by row: the instruction runs `shortBranch` on the row's condition, which the fetch has not changed; the execute part
is written as what it answers after the fetch. Only BNZ's condition differs in form from the model's. -/
theorem exec_of_mem_shortBranches (hb : b ∈ shortBranches s) (addr : Byte) :
    exec (b.instr addr) s = instructionStep b.op (fun _ => shortBranch b.cond addr (branchState s b)) s := by
  have hbnz : decide (s.d ≠ 0) = !dZero s := decide_not
  simp only [shortBranches, hbnz, List.mem_cons, List.not_mem_nil, or_false] at hb
  rcases hb with rfl | rfl | rfl | rfl | rfl | rfl | rfl | rfl | rfl | rfl | rfl | rfl | rfl | rfl | rfl | rfl <;> rfl

theorem gives_shortBranch {Q : State → Prop} (hb : b ∈ shortBranches s)
    (h : shortBranch b.cond addr (branchState s b) = .ok ((branchState s b).setPc w))
    (hQ : ∀ t : State, (∀ k, t.reg k = if k = s.p then w else s.reg k) → Q t) :
    Gives (b.instr addr) s (fun t => Ran b.op 2 b.draws s t ∧ OnlyRegs s t ∧ Q t) := by
  have hcyc : (if b.op.toNat / 16 = 0xC then 3 else 2) = 2 := by rw [op_of_mem_shortBranches hb]; rfl
  exact gives_setPc hcyc ((exec_of_mem_shortBranches hb addr).trans (instructionStep_ok h)) hQ

theorem faults_shortBranch (hb : b ∈ shortBranches s)
    (h : shortBranch b.cond addr (branchState s b) = .error f) : Faults (b.instr addr) s f :=
  (exec_of_mem_shortBranches hb addr).trans (instructionStep_error h)

end

/-- Settles O20: each row runs `shortBranch` (`exec_of_mem_shortBranches`), which answers by the operand's read and the row's
condition: readable, not taken, or taken and unreadable. -/
theorem shortBranchesGoWhereTheySay : Obligations.ShortBranchesGoWhereTheySay := by
  intro s addr b hb
  have hread := memRead_branchState s b
  refine ⟨fun h => ?readable, fun hcond => ?notTaken, fun f hcond h => ?unreadable⟩
  case readable =>
    refine gives_shortBranch hb (shortBranch_readable b.cond addr (hread.trans h)) fun t ht => ?_
    rw [branchState_pc, BitVec.add_assoc] at ht
    exact ⟨fun k hk => by rw [ht, if_neg hk], by rw [ht, if_pos rfl]; rfl⟩
  case notTaken =>
    refine gives_shortBranch hb (hcond ▸ shortBranch_false addr (branchState s b)) fun t ht k => ?_
    rw [ht, branchState_pc, BitVec.add_assoc, stepped]
    split_ifs with hk
    · rw [hk]; rfl
    · rfl
  case unreadable =>
    exact faults_shortBranch hb (hcond ▸ shortBranch_true_unreadable addr (hread.trans h))

end Sys2Proof.Slice0
end

section
/-! Long branches, long skips and NOP (45_long_branch_skip R165 to R182). Every row of the two tables is `longBranch` or
`longSkip` after the fetch; whatever it decides, it moves `R[P]` only, and row C takes three cycles. -/

namespace Sys2Proof.Machine

/-! ## What a long branch and a long skip answer -/

/-- On two readable operand bytes the condition alone decides where `R[P]` goes: to the target, or past it. -/
theorem longBranch_readable {s : State} {v w : Byte} (cond : Bool) (addr : Word) (hhi : memRead s s.pc = .ok v)
    (hlo : memRead s (s.pc + 1) = .ok w) :
    longBranch cond addr s = .ok (s.setPc (if cond then addr else s.pc + 2)) := by
  rcases longBranch_cases cond addr s with ⟨rfl, -, e⟩ | ⟨rfl, e⟩ | ⟨f, -, hfault, -⟩
  · exact e
  · exact e
  · rw [hhi, hlo] at hfault
    simp at hfault

/-- Not taken, it steps over the operand bytes, readable or not. -/
theorem longBranch_false (addr : Word) (s : State) : longBranch false addr s = .ok (s.setPc (s.pc + 2)) := by
  simpa using longBranch_cases false addr s

theorem longBranch_true_unreadable_high {s : State} {f : FaultInfo} (addr : Word) (h : memRead s s.pc = .error f) :
    longBranch true addr s = .error f := by simpa [h] using longBranch_cases true addr s

theorem longBranch_true_unreadable_low {s : State} {v : Byte} {f : FaultInfo} (addr : Word)
    (hhi : memRead s s.pc = .ok v) (hlo : memRead s (s.pc + 1) = .error f) :
    longBranch true addr s = .error f := by
  have hcases := longBranch_cases true addr s
  rw [hhi, hlo] at hcases
  simpa using hcases

theorem setPc_pc (s : State) : s.setPc s.pc = s := by
  have hr : s.r.set s.p.toNat s.pc s.p.isLt = s.r := Vector.set_getElem_self s.p.isLt
  rw [State.setPc, State.setReg, hr]

theorem longSkip_eq (cond : Bool) (s : State) :
    longSkip cond s = .ok (s.setPc (s.pc + if cond then 2 else 0)) := by
  cases cond with
  | true => rfl
  | false => simp [longSkip, setPc_pc]

end Sys2Proof.Machine

namespace Sys2Proof.Slice0

open Sys2Proof.Machine

section
variable {s t : State}

/-- `R[P]` moved on by `c` and no other register written: the registers are the stepped ones. -/
theorem reg_eq_stepped_of_pc_moved {w c : Word} (ht : ∀ k, t.reg k = if k = s.p then w else s.reg k)
    (hw : w = s.pc + c) (k : Nib) : t.reg k = stepped s c k := by
  rw [ht, stepped, hw]
  split_ifs with hk
  · rw [hk]; rfl
  · rfl

/-- An instruction of row C that moves `R[P]` only: three cycles, no free value taken. -/
theorem gives_setPc_rowC {i : Instr} {op : Byte} {body : State → Except FaultInfo State} {w : Word} {Q : State → Prop}
    (hop : op.toNat / 16 = 0xC) (hexec : exec i s = instructionStep op body s)
    (h : body (fetched op s) = .ok ((fetched op s).setPc w))
    (hQ : ∀ t : State, (∀ k, t.reg k = if k = s.p then w else s.reg k) → Q t) :
    Gives i s (fun t => Ran op 3 0 s t ∧ OnlyRegs s t ∧ Q t) :=
  gives_setPc (draws := 0) (if_pos hop) (hexec.trans (instructionStep_ok h)) hQ

end

/-! ## The rows of the long branches -/

section
variable {s : State} {b : Branch Word} {addr w : Word} {f : FaultInfo}

theorem op_of_mem_longBranches (hb : b ∈ longBranches s) : b.op.toNat / 16 = 0xC := by
  have hall : ∀ c ∈ longBranches s, c.op.toNat / 16 = 0xC := by simp [longBranches]
  exact hall b hb

/-- Row by row: the instruction runs `longBranch` on the row's condition, which the fetch has not changed. Only LBNZ's
condition differs in form from the model's. -/
theorem exec_of_mem_longBranches (hb : b ∈ longBranches s) (addr : Word) :
    exec (b.instr addr) s = instructionStep b.op (longBranch b.cond addr) s := by
  have hlbnz : decide (s.d ≠ 0) = !dZero s := decide_not
  simp only [longBranches, hlbnz, List.mem_cons, List.not_mem_nil, or_false] at hb
  rcases hb with rfl | rfl | rfl | rfl | rfl | rfl | rfl <;> rfl

theorem gives_longBranch {Q : State → Prop} (hb : b ∈ longBranches s)
    (h : longBranch b.cond addr (fetched b.op s) = .ok ((fetched b.op s).setPc w))
    (hQ : ∀ t : State, (∀ k, t.reg k = if k = s.p then w else s.reg k) → Q t) :
    Gives (b.instr addr) s (fun t => Ran b.op 3 0 s t ∧ OnlyRegs s t ∧ Q t) :=
  gives_setPc_rowC (op_of_mem_longBranches hb) (exec_of_mem_longBranches hb addr) h hQ

theorem faults_longBranch (hb : b ∈ longBranches s)
    (h : longBranch b.cond addr (fetched b.op s) = .error f) : Faults (b.instr addr) s f :=
  (exec_of_mem_longBranches hb addr).trans (instructionStep_error h)

/-- The operand bytes of a long branch are read at the program counter the fetch left. -/
theorem memRead_longOperand (s : State) (op : Byte) :
    memRead (fetched op s) (fetched op s).pc = memRead s (s.pc + 1) ∧
      memRead (fetched op s) ((fetched op s).pc + 1) = memRead s (s.pc + 2) := by
  have hnext : s.pc + 1 + 1 = s.pc + 2 := BitVec.add_assoc _ _ _
  rw [pc_fetched, hnext]
  exact ⟨rfl, rfl⟩

theorem fetched_pc_add_two (s : State) (op : Byte) : (fetched op s).pc + 2 = s.pc + 3 := by
  rw [pc_fetched, BitVec.add_assoc]; rfl

end

/-! ## The rows of the long skips -/

section
variable {s : State} {b : Branch Unit}

theorem op_of_mem_longSkips (hb : b ∈ longSkips s) : b.op.toNat / 16 = 0xC := by
  have hall : ∀ c ∈ longSkips s, c.op.toNat / 16 = 0xC := by simp [longSkips]
  exact hall b hb

/-- Row by row: the instruction runs `longSkip` on the row's condition, which the fetch has not changed; NOP is the skip
that is never taken. Only LSNZ's condition differs in form from the model's. -/
theorem exec_of_mem_longSkips (hb : b ∈ longSkips s) :
    exec (b.instr ()) s = instructionStep b.op (longSkip b.cond) s := by
  have hlsnz : decide (s.d ≠ 0) = !dZero s := decide_not
  simp only [longSkips, hlsnz, List.mem_cons, List.not_mem_nil, or_false] at hb
  rcases hb with rfl | rfl | rfl | rfl | rfl | rfl | rfl | rfl | rfl <;> rfl

end

/-- Settles O21: each row runs `longBranch` (`exec_of_mem_longBranches`), which answers by the two operand reads and the
row's condition: both readable, not taken, or taken with the high or the low byte unreadable. -/
theorem longBranchesGoWhereTheySay : Obligations.LongBranchesGoWhereTheySay := by
  intro s hi lo b hb
  obtain ⟨hreadHi, hreadLo⟩ := memRead_longOperand s b.op
  have hpast := fetched_pc_add_two s b.op
  refine ⟨fun hhi hlo => ?readable, fun hcond => ?notTaken, fun f hcond hhi => ?unreadableHigh,
    fun f hcond hhi hlo => ?unreadableLow⟩
  case readable =>
    refine gives_longBranch hb (longBranch_readable b.cond _ (hreadHi.trans hhi) (hreadLo.trans hlo)) fun t ht => ?_
    rw [hpast] at ht
    exact ⟨fun k hk => by rw [ht, if_neg hk], by rw [ht, if_pos rfl, ← joinBytes_eq_ofNat]; rfl⟩
  case notTaken =>
    exact gives_longBranch hb (hcond ▸ longBranch_false _ _) fun t ht => reg_eq_stepped_of_pc_moved ht hpast
  case unreadableHigh =>
    exact faults_longBranch hb (hcond ▸ longBranch_true_unreadable_high _ (hreadHi.trans hhi))
  case unreadableLow =>
    exact faults_longBranch hb (hcond ▸ longBranch_true_unreadable_low _ (hreadHi.trans hhi) (hreadLo.trans hlo))

/-- Settles O22: each row runs `longSkip` (`exec_of_mem_longSkips`), which moves `R[P]` by two or by nothing and reads no
memory (`longSkip_eq`). -/
theorem longSkipsStepOverTwoBytes : Obligations.LongSkipsStepOverTwoBytes := by
  intro s b hb
  refine gives_setPc_rowC (op_of_mem_longSkips hb) (exec_of_mem_longSkips hb) (longSkip_eq b.cond _)
    fun t ht => reg_eq_stepped_of_pc_moved ht ?_
  rw [pc_fetched, BitVec.add_assoc]
  cases b.cond <;> rfl

end Sys2Proof.Slice0
end

section
/-! Control (46_control R185 to R193). IDL, SEP, SEX, SEQ and REQ write one control bit or selector and access no memory;
SAV and MARK run to the end on an answered write, RET and DIS on an answered read. -/

namespace Sys2Proof.Slice0

open Sys2Proof.Machine

/-! ## One control bit or selector -/

/-- An instruction whose execute part writes `P`, `X`, `Q`, the idle bit and the events only. -/
theorem gives_controlWritten {i : Instr} {s : State} {op : Byte} {p x : Nib} {q idle : Bool} {events : List Event}
    (hop : op.toNat / 16 ≠ 0xC)
    (hexec : exec i s =
      .next (countCycles { fetched op s with p := p, x := x, q := q, idle := idle, events := events })) :
    Gives i s (fun t => Ran op 2 0 s t ∧
      ControlSame { s with p := p, x := x, q := q, idle := idle, events := events } t ∧ t.d = s.d ∧ t.df = s.df ∧
      DevicesSame { s with p := p, x := x, q := q, idle := idle, events := events } t ∧ MemSame s t ∧
      ∀ k, t.reg k = stepped s 1 k) :=
  ⟨_, hexec, ran_two_cycles hop ⟨rfl, .inl rfl⟩ rfl, ⟨rfl, rfl, rfl, rfl, rfl, rfl⟩, rfl, rfl, ⟨rfl, rfl, rfl, rfl⟩,
    ⟨rfl, fun _ => rfl⟩, reg_fetched_eq_stepped s op⟩

/-- Clearing `Q` is an event exactly when it was set. -/
theorem setQ_false (s : State) : setQ false s =
    { s with q := false, events := if s.q then .qOutput (s.cycles + 1) false :: s.events else s.events } := by
  cases h : s.q <;> simp [setQ, h]

/-- Settles O23: each row writes its fields in the state the fetch left (`gives_controlWritten`), SEQ and REQ through
`setQ`. -/
theorem controlBitsAndSelectors : Obligations.ControlBitsAndSelectors := by
  intro s n row hrow
  simp only [List.mem_cons, List.not_mem_nil, or_false] at hrow
  obtain rfl | rfl | rfl | rfl | rfl := hrow
  · exact gives_controlWritten (op := 0x00#8) (by decide) rfl
  · exact gives_controlWritten (joinNibs_div_ne n (by decide)) rfl
  · exact gives_controlWritten (joinNibs_div_ne n (by decide)) rfl
  · exact gives_controlWritten (op := 0x7B#8) (by decide) rfl
  · have hreq : exec .req s = .next (countCycles (setQ false (fetched 0x7A#8 s))) := rfl
    rw [setQ_false] at hreq
    exact gives_controlWritten (op := 0x7A#8) (by decide) hreq

/-! ## Saving `T`, `X` and `P` -/

/-- MARK on a writable `R[2]`: `X : P` reaches `T` and memory before `X` and `R[2]` are written, so the byte and its
address are those from before (46_control R191). -/
theorem gives_mark {s : State} (h : Writable s (stepped s 1 2)) :
    Gives .mark s (fun t => Ran 0x79 2 0 s t ∧ t.d = s.d ∧ t.df = s.df ∧
      ControlSame { s with t := savedXP s, x := s.p } t ∧ DevicesSame s t ∧ Stored s t (stepped s 1 2) (savedXP s) ∧
      ∀ k, t.reg k = stepped s 1 k - (if k = 2 then 1 else 0)) := by
  obtain ⟨m, hwrite, hstored⟩ :=
    memWrite_of_writable (s := { fetched 0x79#8 s with t := savedXP s }) (savedXP s) h
  rw [← reg_fetched_eq_stepped s 0x79#8 2] at hwrite
  have hmark := markStack_ok (s := fetched 0x79#8 s) hwrite
  exact ⟨_, instructionStep_ok hmark, ran_two_cycles (by decide) (HwFrame.markStack hmark) rfl, rfl, rfl,
    ⟨rfl, rfl, rfl, rfl, rfl, rfl⟩, ⟨rfl, rfl, rfl, rfl⟩, hstored, reg_setReg_sub_fetched 0x79#8 rfl 1⟩

/-- Settles O24: SAV is an answered store of `T` (`gives_storedByte`), MARK is `gives_mark`. -/
theorem saveAndMark : Obligations.SaveAndMark := by
  intro s
  refine ⟨fun h => ?sav, gives_mark⟩
  obtain ⟨m, hwrite, hstored⟩ := memWrite_reg_fetched_ok 0x78#8 s.t h
  exact gives_storedByte (by decide) hwrite hstored (instructionStep_ok hwrite) rfl (reg_fetched_eq_stepped s 0x78#8)

/-! ## Restoring `X` and `P` -/

/-- RET and DIS on a readable byte; they differ in the `IE` they leave. -/
theorem gives_returnThroughX {i : Instr} {s : State} {op v : Byte} {ie : Bool} (hop : op.toNat / 16 ≠ 0xC)
    (hexec : exec i s = instructionStep op (returnThroughX ie) s) (h : memRead s (stepped s 1 s.x) = .ok v) :
    Gives i s (fun t => Ran op 2 0 s t ∧
      t.x.toNat = v.toNat / 16 ∧ t.p.toNat = v.toNat % 16 ∧ t.ie = ie ∧ t.t = s.t ∧ t.q = s.q ∧
      t.idle = s.idle ∧ t.d = s.d ∧ t.df = s.df ∧ DevicesSame s t ∧ MemSame s t ∧
      ∀ k, t.reg k = stepped s 1 k + (if k = s.x then 1 else 0)) := by
  have hreturn := returnThroughX_ok ie (memRead_reg_fetched_ok (op := op) h)
  exact ⟨_, hexec.trans (instructionStep_ok hreturn), ran_two_cycles hop (HwFrame.returnThroughX hreturn) rfl,
    hiNib_toNat v, loNib_toNat v, rfl, rfl, rfl, rfl, rfl, rfl, ⟨rfl, rfl, rfl, rfl⟩, ⟨rfl, fun _ => rfl⟩,
    reg_setReg_add_fetched op rfl 1⟩

/-- Settles O25: both rows are `gives_returnThroughX`. -/
theorem returnRestoresXAndP : Obligations.ReturnRestoresXAndP := by
  intro s v row hrow h
  simp only [List.mem_cons, List.not_mem_nil, or_false] at hrow
  obtain rfl | rfl := hrow
  · exact gives_returnThroughX (by decide) rfl h
  · exact gives_returnThroughX (by decide) rfl h

end Sys2Proof.Slice0
end

section
/-! Input and output (47_io R200 to R205). OUT runs to its end on an answered read, INP on an answered write; opcode
0x68 and every unmapped CHIP-8 opcode fault. -/

namespace Sys2Proof.Slice0

open Sys2Proof.Machine

/-- The opcode byte of OUT, digit by digit and as the port's row writes it. -/
theorem joinNibs_out (p : Port) : joinNibs 0x6#4 (0#1 ++ p) = 0b01100#5 ++ p := by revert p; decide

theorem joinNibs_inp (p : Port) : joinNibs 0x6#4 (1#1 ++ p) = 0b01101#5 ++ p := by revert p; decide

/-- Settles O26: on an answered read the strobe acts port by port (`ioOut_eq`), and then `R[X]` steps over the byte. -/
theorem outputStrobes : Obligations.OutputStrobes := by
  intro s p v h
  rw [← joinNibs_out]
  have hout := outputByte_ok p (memRead_reg_fetched_ok (op := joinNibs 0x6#4 (0#1 ++ p)) h)
  have hframe := HwFrame.outputByte hout
  rw [ioOut_eq] at hout hframe
  exact ⟨_, instructionStep_ok hout, ran_two_cycles (joinNibs_div_ne _ (by decide)) hframe rfl, rfl, rfl,
    ⟨rfl, rfl, rfl, rfl, rfl, rfl⟩, ⟨rfl, fun _ => rfl⟩, reg_setReg_add_fetched _ rfl 1, rfl, rfl, rfl, rfl⟩

/-- Settles O27: the strobe (`ioIn_eq`) changes nothing that decides whether the write of the port's byte may go
through, so the byte is stored, and `D` takes it too. -/
theorem inputStrobes : Obligations.InputStrobes := by
  intro s p h
  rw [← joinNibs_inp]
  let op := joinNibs 0x6#4 (1#1 ++ p)
  have hwritable : Writable (ioIn p (fetched op s)) (stepped s 1 s.x) := by rw [ioIn_eq]; exact h
  obtain ⟨m, hwrite, hstored⟩ := memWrite_of_writable (inputByte p (fetched op s)) hwritable
  rw [← reg_fetched_eq_stepped s op] at hwrite
  have hinp := storeInput_ok hwrite
  have hframe := HwFrame.storeInput hinp
  rw [ioIn_eq] at hinp hframe hstored
  exact ⟨_, instructionStep_ok hinp, ran_two_cycles (joinNibs_div_ne _ (by decide)) hframe rfl, rfl, hstored, rfl,
    ⟨rfl, rfl, rfl, rfl, rfl, rfl⟩, reg_fetched_eq_stepped s op, rfl, rfl, rfl, rfl⟩

/-- Settles O28: both execute parts answer the fault whatever the state is. -/
theorem invalidOpcodesFault : Obligations.InvalidOpcodesFault := by
  intro s op
  simp only [faults_iff, exec]
  exact ⟨instructionStep_error rfl, handlerStep_error rfl⟩

end Sys2Proof.Slice0
end

section
/-! The dispatch table (48_dispatch R211 to R213): the slots an `on` call writes, seen bit by bit. -/

namespace Sys2Proof

/-- The table after an `on` call that is not refused. -/
theorem onCall_of_ok {c : OnCall} (table : List OnCall) (h : c.pattern &&& ~~~c.mask = 0) :
    onCall table c = some (table ++ [c]) := by
  simp [onCall, OnCall.ok, h]

theorem onCall_of_not_ok {c : OnCall} (table : List OnCall) (h : c.pattern &&& ~~~c.mask ≠ 0) :
    onCall table c = none := by
  simpa [onCall, OnCall.ok] using h

/-! ## Words bit by bit -/

theorem word_eq_iff_getLsbD (a b : Word) : a = b ↔ ∀ k, k < 16 → a.getLsbD k = b.getLsbD k :=
  ⟨by rintro rfl _ _; rfl, fun h => BitVec.eq_of_getLsbD_eq fun k hk => h k hk⟩

/-- The precondition of an `on` call: no bit of the pattern stands outside the mask. -/
theorem and_not_eq_zero_iff (p m : Word) :
    p &&& ~~~m = 0 ↔ ∀ k, k < 16 → p.getLsbD k = true → m.getLsbD k = true := by
  rw [word_eq_iff_getLsbD]
  refine forall₂_congr fun k hk => ?_
  simp only [BitVec.getLsbD_and, BitVec.getLsbD_not, BitVec.ofNat_eq_ofNat, BitVec.getLsbD_zero, hk, decide_true,
    Bool.true_and]
  cases p.getLsbD k <;> cases m.getLsbD k <;> decide

/-- An `on` call hits the opcodes that agree with its pattern on the mask's bits. -/
theorem OnCall.hits_iff_getLsbD {c : OnCall} (h : c.pattern &&& ~~~c.mask = 0) (op : Word) :
    c.hits op = true ↔ ∀ k, k < 16 → c.mask.getLsbD k = true → op.getLsbD k = c.pattern.getLsbD k := by
  rw [and_not_eq_zero_iff] at h
  rw [OnCall.hits, beq_iff_eq, word_eq_iff_getLsbD]
  refine forall₂_congr fun k hk => ?_
  have hsub := h k hk
  rw [BitVec.getLsbD_and]
  generalize op.getLsbD k = o, c.mask.getLsbD k = m, c.pattern.getLsbD k = p at hsub ⊢
  revert o m p
  decide

/-! ## Counting the slots -/

/-- Does `x` agree with `p` on those of the lowest `n` bits that `m` selects. -/
def agreesBelow (m p : Nat → Bool) (n x : Nat) : Bool :=
  match n with
  | 0 => true
  | n + 1 => agreesBelow m p n x && (!m n || x.testBit n == p n)

theorem agreesBelow_iff (m p : Nat → Bool) (n x : Nat) :
    agreesBelow m p n x = true ↔ ∀ k, k < n → m k = true → x.testBit k = p k := by
  induction n with
  | zero => simp [agreesBelow]
  | succ n ih =>
    rw [agreesBelow, Bool.and_eq_true, ih, Nat.forall_lt_succ_right]
    cases m n <;> simp

section
variable (m p : Nat → Bool) (n : Nat)

/-- The bits below `n` do not see `2 ^ n`. -/
theorem agreesBelow_two_pow_add (x : Nat) : agreesBelow m p n (2 ^ n + x) = agreesBelow m p n x := by
  rw [Bool.eq_iff_iff, agreesBelow_iff, agreesBelow_iff]
  exact forall₂_congr fun k hk => by rw [Nat.testBit_two_pow_add_gt hk]

/-- Of the numbers that have `b` as bit `n` and any bits below it, all that agree below `n` agree, or none does. -/
theorem countP_agreesBelow_succ {f : Nat → Nat} {b : Bool} (hbit : ∀ x < 2 ^ n, (f x).testBit n = b)
    (hlow : ∀ x, agreesBelow m p n (f x) = agreesBelow m p n x) :
    (List.range (2 ^ n)).countP (fun x => agreesBelow m p (n + 1) (f x)) =
      if (!m n || b == p n) = true then (List.range (2 ^ n)).countP (agreesBelow m p n) else 0 := by
  have hstep : ∀ x ∈ List.range (2 ^ n),
      agreesBelow m p (n + 1) (f x) = (agreesBelow m p n x && (!m n || b == p n)) := fun x hx => by
    rw [agreesBelow, hlow, hbit x (List.mem_range.1 hx)]
  rw [List.countP_congr fun x hx => by rw [hstep x hx]]
  cases !m n || b == p n <;> simp

/-- The numbers below `2 ^ n` that agree with `p` on the bits `m` selects: every bit left free doubles them. -/
theorem countP_agreesBelow :
    (List.range (2 ^ n)).countP (agreesBelow m p n) = 2 ^ (List.range n).countP (fun k => !m k) := by
  induction n with
  | zero => rfl
  | succ n ih =>
    have hlow := countP_agreesBelow_succ m p n (f := id) (fun x hx => Nat.testBit_lt_two_pow hx) (fun _ => rfl)
    have hhigh := countP_agreesBelow_succ m p n (f := (2 ^ n + ·)) (b := true)
      (fun x hx => by rw [Nat.testBit_two_pow_add_eq, Nat.testBit_lt_two_pow hx]; rfl) (agreesBelow_two_pow_add m p n)
    rw [ih] at hlow hhigh
    rw [pow_succ, mul_two, List.range_add, List.countP_append, List.countP_map, List.range_succ, List.countP_append]
    refine (congrArg₂ (· + ·) hlow hhigh).trans ?_
    cases hm : m n <;> cases p n <;> simp [hm, pow_succ, mul_two]

end

end Sys2Proof

namespace Sys2Proof.Slice0

/-- Settles O5: the slots hit are the numbers that agree with the pattern on the mask's bits (`countP_agreesBelow`). -/
theorem onCallWritesTwoToTheFreeBitsSlots : Obligations.OnCallWritesTwoToTheFreeBitsSlots := by
  intro c h
  have hhits : ∀ op ∈ List.range (2 ^ 16), c.hits (BitVec.ofNat 16 op) = true ↔
      agreesBelow c.mask.getLsbD c.pattern.getLsbD 16 op = true := fun op _ => by
    rw [OnCall.hits_iff_getLsbD h, agreesBelow_iff]
    refine forall₂_congr fun k hk => ?_
    rw [BitVec.getLsbD_ofNat, decide_eq_true hk, Bool.true_and]
  have hfree : ∀ k ∈ List.range 16, (!c.mask.getLsbD k) = true ↔ (~~~c.mask).getLsbD k = true := fun k hk => by
    rw [BitVec.getLsbD_not, decide_eq_true (List.mem_range.1 hk), Bool.true_and]
  rw [← List.countP_eq_length_filter, popcount, ← List.countP_eq_length_filter, ← List.countP_congr hfree]
  exact (List.countP_congr hhits).trans (countP_agreesBelow _ _ 16)

/-- Settles O6: a common slot agrees with both patterns, so these agree where both masks select; where they do, their
union is a common slot. -/
theorem disjointFamiliesTest : Obligations.DisjointFamiliesTest := by
  intro c1 c2 h1 h2
  rw [not_iff_not]
  have hagree : (c1.pattern ^^^ c2.pattern) &&& c1.mask &&& c2.mask = 0 ↔
      ∀ k, k < 16 → c1.mask.getLsbD k = true → c2.mask.getLsbD k = true →
        c1.pattern.getLsbD k = c2.pattern.getLsbD k := by
    rw [word_eq_iff_getLsbD]
    refine forall₂_congr fun k hk => ?_
    simp only [BitVec.getLsbD_and, BitVec.getLsbD_xor, BitVec.ofNat_eq_ofNat, BitVec.getLsbD_zero]
    generalize c1.mask.getLsbD k = m1, c2.mask.getLsbD k = m2, c1.pattern.getLsbD k = p1, c2.pattern.getLsbD k = p2
    revert m1 m2 p1 p2
    decide
  simp only [hagree, OnCall.hits_iff_getLsbD h1, OnCall.hits_iff_getLsbD h2]
  rw [and_not_eq_zero_iff] at h1 h2
  constructor
  · rintro ⟨op, hop1, hop2⟩ k hk hm1 hm2
    exact (hop1 k hk hm1).symm.trans (hop2 k hk hm2)
  · intro h
    refine ⟨c1.pattern ||| c2.pattern, fun k hk hm1 => ?_, fun k hk hm2 => ?_⟩
    · have hsame := h k hk hm1
      have hsub := h2 k hk
      rw [BitVec.getLsbD_or]
      grind
    · have hsame := fun hm1 => h k hk hm1 hm2
      have hsub := h1 k hk
      rw [BitVec.getLsbD_or]
      grind

/-- Settles O7: `onCall` puts an accepted call at the end of the table, where it wins (`handlerAt_concat`). -/
theorem tableBuiltCallByCall : Obligations.TableBuiltCallByCall := by
  refine ⟨handlerAt_nil, fun table c op h => ⟨_, onCall_of_ok table h, ?_⟩, fun table c h => onCall_of_not_ok table h⟩
  rw [handlerAt_concat]
  exact if_congr beq_iff_eq rfl rfl

end Sys2Proof.Slice0
end

section
/-! The CHIP-8 handlers (48_dispatch R221 to R229). A handler that answers has advanced `PC8`, counted once and kept the
CDP1802's side; what else it wrote is what its execute part names. -/

namespace Sys2Proof.Machine

/-! ## Addresses reduced to a width -/

/-- A sum may be taken before or after the reduction to 24 bits: the width divides it. -/
theorem trim_add_toNat (w : AddrWidth) (a c : Addr8) : (trim w (a + c)).toNat = (a.toNat + c.toNat) % 2 ^ w.bits := by
  rw [trim_toNat, BitVec.toNat_add]
  exact Nat.mod_mod_of_dvd _ (Nat.pow_dvd_pow 2 (by cases w <;> decide))

/-- Going back by `c` undoes going on by `c`, up to the width. -/
theorem trim_sub_trim_add_toNat (w : AddrWidth) (a c : Addr8) :
    (trim w (trim w (a + c) - c)).toNat = a.toNat % 2 ^ w.bits := by
  have hsum := trim_add_toNat w (trim w (a + c)) (-c)
  rw [← BitVec.sub_eq_add_neg] at hsum
  rw [hsum, trim_add_toNat, BitVec.toNat_neg]
  have hc : c.toNat < 2 ^ 24 := c.isLt
  cases w <;> simp only [AddrWidth.bits] <;> omega

end Sys2Proof.Machine

namespace Sys2Proof.Slice0

open Sys2Proof.Machine

/-! ## What every handler that answers has done -/

section
variable {s u : State}

/-- The frame of a handler's execute part, in the statements' vocabulary. -/
theorem ran8_of_c8Frame {draws : Nat} (h : C8Frame (fetched8 s) u) (hdraws : u.draws = s.draws + draws) :
    Ran8 draws s u := by
  have hrest := h.rest
  exact
    { cpu :=
        ⟨(congrArg State.r hrest :), (congrArg State.d hrest :), (congrArg State.df hrest :),
          (congrArg State.i hrest :), (congrArg State.n hrest :), (congrArg State.cycles hrest :),
          ⟨(congrArg State.p hrest :), (congrArg State.x hrest :), (congrArg State.t hrest :),
            (congrArg State.ie hrest :), (congrArg State.q hrest :), (congrArg State.idle hrest :)⟩,
          ⟨(congrArg State.displayEnabled hrest :), (congrArg State.bootLatch hrest :),
            (congrArg State.keyLatch hrest :), (congrArg State.events hrest :)⟩⟩
      block :=
        ⟨(congrArg State.fault hrest :), (congrArg State.stepOverDepth hrest :), (congrArg State.breakpoints hrest :),
          (congrArg State.cfg hrest :), (congrArg State.program hrest :), (congrArg State.phase hrest :),
          (congrArg State.inTick hrest :), (congrArg State.frameLeft hrest :), (congrArg State.inbox hrest :)⟩
      cycles8 := (congrArg State.cycles8 hrest :)
      draws := hdraws
      dt := (congrArg State.dt hrest :)
      st := (congrArg State.st hrest :)
      frames8 := (congrArg State.frames8 hrest :)
      clears8 := (congrArg State.clears8 hrest :)
      execMode := (congrArg State.execMode hrest :) }

theorem nextOpcode_of_pc8 (h : u.pc8 = (fetched8 s).pc8) : NextOpcode s u := by
  rw [NextOpcode, h, fetched8_pc8, trim_add_toNat]; rfl

/-- An instruction whose execute part writes `V` only. -/
theorem gives_vWritten {i : Instr} {v : Vector Byte 16} {Q : State → Prop}
    (hexec : exec i s = .next { fetched8 s with v := v }) (hQ : ∀ t : State, t.v = v → Q t) :
    Gives i s (fun t => Ran8 0 s t ∧ NextOpcode s t ∧ StackSame s t ∧ t.i8 = s.i8 ∧ t.cpuState = s.cpuState ∧
      MemSame s t ∧ Q t) :=
  ⟨_, hexec, ran8_of_c8Frame ⟨rfl, ⟨[], rfl, rfl⟩, id, id, id⟩ rfl, nextOpcode_of_pc8 rfl, ⟨rfl, rfl⟩, rfl, rfl,
    ⟨rfl, fun _ => rfl⟩, hQ _ rfl⟩

end

/-! ## Logic and shifts -/

theorem logicResult_eq (x : Nib) (b : Byte) (s : State) :
    logicResult x b s = { s with v := (logicResult x b s).v } := by
  simp only [logicResult]
  split_ifs <;> rfl

theorem vreg_logicResult (x k : Nib) (b : Byte) (s : State) : (logicResult x b s).vreg k =
    if k = 15 ∧ s.cfg.vfResetOnLogic = true then 0 else if k = x then b else s.vreg k := by
  simp only [logicResult]
  cases s.cfg.vfResetOnLogic <;> simp [vreg_setV, vf]

theorem vreg_resultThenFlag (x k : Nib) (b : Byte) (flag : Bool) (s : State) : (resultThenFlag x b flag s).vreg k =
    if k = 15 then (if flag then 1 else 0) else if k = x then b else s.vreg k := by
  simp [resultThenFlag, vreg_setV, vf]

theorem gives_logicResult {i : Instr} {s : State} {x : Nib} {b : Byte}
    (hexec : exec i s = .next (logicResult x b (fetched8 s))) :
    Gives i s (fun t => Ran8 0 s t ∧ NextOpcode s t ∧ StackSame s t ∧ t.i8 = s.i8 ∧ t.cpuState = s.cpuState ∧
      MemSame s t ∧
      ∀ k, t.vreg k = if k = 15 ∧ s.cfg.vfResetOnLogic = true then 0 else if k = x then b else s.vreg k) := by
  have hv := vreg_logicResult x (b := b) (s := fetched8 s)
  rw [logicResult_eq] at hexec
  exact gives_vWritten hexec fun t ht k => (vreg_of_v (s := logicResult x b (fetched8 s)) ht k).trans (hv k)

/-- Settles O29: each row writes its result through `logicResult`. -/
theorem chip8Logic : Obligations.Chip8Logic := by
  intro s x y row hrow
  simp only [List.mem_cons, List.not_mem_nil, or_false] at hrow
  obtain rfl | rfl | rfl := hrow
  · exact gives_logicResult rfl
  · exact gives_logicResult rfl
  · exact gives_logicResult rfl

/-- A shift, its result and its flag given as numbers; the flag is written last, so `V[15]` keeps it
(48_dispatch R225). -/
theorem gives_resultThenFlag {i : Instr} {s : State} {x : Nib} {b : Byte} {flag : Bool} {r f : Nat}
    (hexec : exec i s = .next (resultThenFlag x b flag (fetched8 s))) (hr : b.toNat = r) (hf : flag.toNat = f) :
    Gives i s (fun t => Ran8 0 s t ∧ NextOpcode s t ∧ StackSame s t ∧ t.i8 = s.i8 ∧ t.cpuState = s.cpuState ∧
      MemSame s t ∧ ∀ k, (t.vreg k).toNat = if k = 15 then f else if k = x then r else (s.vreg k).toNat) := by
  refine gives_vWritten hexec fun t ht k => ?_
  rw [vreg_of_v (s := resultThenFlag x b flag (fetched8 s)) ht, vreg_resultThenFlag]
  simp only [apply_ite BitVec.toNat, hr, ← hf]
  cases flag <;> rfl

/-- Settles O30: the quirk's source register is the model's `shiftOperand`. -/
theorem chip8Shifts : Obligations.Chip8Shifts := by
  intro s x y src hsrc
  have hsrc : src = shiftOperand x y s := hsrc
  have hlt : src.toNat < 2 ^ 8 := src.isLt
  have hright : exec (.c8ShiftRight x y) s = .next (resultThenFlag x (src >>> 1) (src.getLsbD 0) (fetched8 s)) := by
    rw [hsrc]; rfl
  have hleft : exec (.c8ShiftLeft x y) s = .next (resultThenFlag x (src <<< 1) (src.getLsbD 7) (fetched8 s)) := by
    rw [hsrc]; rfl
  refine ⟨gives_resultThenFlag hright ?_ ?_, gives_resultThenFlag hleft ?_ ?_⟩
  · rw [BitVec.toNat_ushiftRight, Nat.shiftRight_eq_div_pow]
  · rw [BitVec.getLsbD, Nat.toNat_testBit, pow_zero, Nat.div_one]
  · rw [BitVec.toNat_shiftLeft, Nat.shiftLeft_eq]
  · rw [BitVec.getLsbD, Nat.toNat_testBit]
    omega

end Sys2Proof.Slice0
end

section
/-! The load and store of `V[0]..V[x]`, Fx55 and Fx65 (48_dispatch R227): at most sixteen addresses in a row, masked, so
no two of them are the same. -/

namespace Sys2Proof.Machine

/-! ## A list of writes -/

/-- Read after a list of writes: the last one to the address counts. -/
theorem writeAll8_read (ws : List (Nat × Byte)) (s : State) (a : Nat) :
    (writeAll8 ws s).mem.read a = Slice0.lastWritten s.cfg.memSize ws a (s.mem.read a) := by
  induction ws generalizing s with
  | nil => rfl
  | cons w ws ih =>
    refine (ih (write8 s w.1 w.2)).trans ?_
    rw [write8_read, if_congr eq_comm rfl rfl]
    rfl

/-- A write to address 0 restores the pad (20_memory R67), and the last one to it is the byte read there. -/
theorem writeAll8_pad (ws : List (Nat × Byte)) (s : State) : (writeAll8 ws s).pad =
    if ∃ w ∈ ws, w.1 % s.cfg.memSize = 0 then (writeAll8 ws s).mem.read 0 else s.pad := by
  induction ws generalizing s with
  | nil => simp [writeAll8]
  | cons w ws ih =>
    have hcons : writeAll8 (w :: ws) s = writeAll8 ws (write8 s w.1 w.2) := rfl
    have hrest := ih (write8 s w.1 w.2)
    rw [write8_cfg, write8_pad] at hrest
    rw [hcons, hrest]
    by_cases hlater : ∃ w' ∈ ws, w'.1 % s.cfg.memSize = 0
    · rw [if_pos hlater, if_pos (hlater.imp fun w' h => ⟨List.mem_cons_of_mem _ h.1, h.2⟩)]
    · have hkeeps : (writeAll8 ws (write8 s w.1 w.2)).mem.read 0 = (write8 s w.1 w.2).mem.read 0 :=
        writeAll8_read_ne ws _ 0 fun w' hw h => hlater ⟨w', hw, h⟩
      rw [if_neg hlater, hkeeps, write8_read]
      by_cases hw : w.1 % s.cfg.memSize = 0
      · rw [if_pos hw, if_pos ⟨w, List.mem_cons_self, hw⟩, if_pos hw.symm]
      · rw [if_neg hw, if_neg (by simpa [hw] using hlater)]

/-! ## Storing and loading the registers -/

/-- Sixteen addresses in a row stay apart when masked. -/
theorem indexAt_inj {s : State} {j k : Nat} (hj : j < 16) (hk : k < 16) (h : indexAt s j = indexAt s k) : j = k := by
  have hsize := ramSize_le_memSize s.cfg
  have hmod : j ≡ k [MOD s.cfg.memSize] := Nat.ModEq.add_left_cancel' s.i8.toNat h
  exact Nat.ModEq.eq_of_lt_of_lt hmod (by omega) (by omega)

theorem indexAt_mod (s : State) (k : Nat) : indexAt s k % s.cfg.memSize = indexAt s k := Nat.mod_mod _ _

theorem storeRegs_succ (k : Nat) (s : State) : storeRegs (k + 1) s =
    write8 (storeRegs k s) (indexAt s (k + 1)) (s.vreg (BitVec.ofNat 4 (k + 1))) := by
  have hindex : indexAt (storeRegs k s) = indexAt s := by rw [storeRegs_eq]; rfl
  have hv : (storeRegs k s).vreg = s.vreg := by rw [storeRegs_eq]; rfl
  rw [← hindex, ← hv]
  rfl

/-- The bytes Fx55 writes for `V[0]..V[k]`, in order. -/
def storedBytes (k : Nat) (s : State) : List (Nat × Byte) :=
  (List.range (k + 1)).map fun j => (indexAt s j, s.vreg (BitVec.ofNat 4 j))

theorem mem_storedBytes {k : Nat} {s : State} {w : Nat × Byte} :
    w ∈ storedBytes k s ↔ ∃ j ≤ k, w = (indexAt s j, s.vreg (BitVec.ofNat 4 j)) := by
  simp [storedBytes, eq_comm]

theorem storeRegs_eq_writeAll8 (k : Nat) (s : State) : storeRegs k s = writeAll8 (storedBytes k s) s := by
  induction k with
  | zero => rfl
  | succ k ih =>
    have hbytes : storedBytes (k + 1) s =
        storedBytes k s ++ [(indexAt s (k + 1), s.vreg (BitVec.ofNat 4 (k + 1)))] := by
      rw [storedBytes, List.range_succ, List.map_append]
      rfl
    rw [storeRegs_succ, ih, hbytes, writeAll8, writeAll8, List.foldl_append]
    rfl

theorem storeRegs_cfg (k : Nat) (s : State) : (storeRegs k s).cfg = s.cfg := by rw [storeRegs_eq]

theorem storeRegs_read_index {j k : Nat} (s : State) (hj : j ≤ k) (hk : k < 16) :
    (storeRegs k s).mem.read (indexAt s j) = s.vreg (BitVec.ofNat 4 j) := by
  induction k with
  | zero =>
    obtain rfl := Nat.le_zero.1 hj
    rw [storeRegs, write8_read, indexAt_mod, if_pos rfl]
    rfl
  | succ k ih =>
    rw [storeRegs_succ, write8_read, storeRegs_cfg, indexAt_mod]
    rcases Nat.eq_or_lt_of_le hj with rfl | hlt
    · rw [if_pos rfl]
    · have hne : indexAt s j ≠ indexAt s (k + 1) := fun h => hlt.ne (indexAt_inj (by omega) hk h)
      rw [if_neg hne, ih (by omega) (by omega)]

theorem storeRegs_read_other {k a : Nat} (s : State) (h : ∀ j ≤ k, a ≠ indexAt s j) :
    (storeRegs k s).mem.read a = s.mem.read a := by
  rw [storeRegs_eq_writeAll8]
  refine writeAll8_read_ne _ _ _ fun w hw => ?_
  obtain ⟨j, hj, rfl⟩ := mem_storedBytes.1 hw
  rw [indexAt_mod]
  exact (h j hj).symm

theorem storeRegs_pad (k : Nat) (s : State) : (storeRegs k s).pad =
    if ∃ j ≤ k, indexAt s j = 0 then (storeRegs k s).mem.read 0 else s.pad := by
  rw [storeRegs_eq_writeAll8, writeAll8_pad]
  refine if_congr ⟨?_, ?_⟩ rfl rfl
  · rintro ⟨w, hw, h⟩
    obtain ⟨j, hj, rfl⟩ := mem_storedBytes.1 hw
    exact ⟨j, hj, (indexAt_mod s j).symm.trans h⟩
  · rintro ⟨j, hj, h⟩
    exact ⟨_, mem_storedBytes.2 ⟨j, hj, rfl⟩, (indexAt_mod s j).trans h⟩

theorem loadRegs_succ (k : Nat) (s : State) : loadRegs (k + 1) s =
    (loadRegs k s).setV (BitVec.ofNat 4 (k + 1)) (s.mem.read (indexAt s (k + 1))) := by
  have hindex : indexAt (loadRegs k s) = indexAt s := by rw [loadRegs_eq]; rfl
  have hmem : (loadRegs k s).mem = s.mem := by rw [loadRegs_eq]
  rw [← hindex, ← hmem]
  rfl

theorem vreg_loadRegs {k : Nat} (s : State) (hk : k < 16) (n : Nib) : (loadRegs k s).vreg n =
    if n.toNat ≤ k then s.mem.read (indexAt s n.toNat) else s.vreg n := by
  induction k with
  | zero =>
    have hzero : n = 0 ↔ n.toNat ≤ 0 := by bv_omega
    rw [loadRegs, vreg_setV, if_congr hzero rfl rfl]
    split_ifs with h
    · rw [Nat.le_zero.1 h]
    · rfl
  | succ k ih =>
    have hlast : n = BitVec.ofNat 4 (k + 1) ↔ n.toNat = k + 1 := by
      rw [← BitVec.toNat_inj, BitVec.toNat_ofNat, Nat.mod_eq_of_lt hk]
    rw [loadRegs_succ, vreg_setV, ih (by omega), if_congr hlast rfl rfl]
    grind

/-- Fx55 writes `I8`, memory and the pad only. -/
theorem moveI_storeRegs_eq (x : Nib) (k : Nat) (s : State) : moveI x (storeRegs k s) =
    { s with i8 := (moveI x (storeRegs k s)).i8, mem := (storeRegs k s).mem, pad := (storeRegs k s).pad } :=
  (moveI_eq x _).trans (by rw [storeRegs_eq])

/-- Fx65 writes `I8` and `V` only. -/
theorem moveI_loadRegs_eq (x : Nib) (k : Nat) (s : State) : moveI x (loadRegs k s) =
    { s with i8 := (moveI x (loadRegs k s)).i8, v := (loadRegs k s).v } :=
  (moveI_eq x _).trans (by rw [loadRegs_eq])

end Sys2Proof.Machine

namespace Sys2Proof.Slice0

open Sys2Proof.Machine

/-- The quirk `LOADSTORE_I`, with the reductions taken out of the 24-bit sums. -/
theorem moveI_i8_toNat (x : Nib) (s : State) : (moveI x s).i8.toNat = movedI s x := by
  have hlt : x.toNat < 2 ^ 4 := x.isLt
  have hx : (x.zeroExtend 24 : Addr8).toNat = x.toNat := BitVec.toNat_setWidth_of_le (by decide)
  have hx1 : (x.zeroExtend 24 + 1 : Addr8).toNat = x.toNat + 1 := by bv_omega
  cases h : s.cfg.loadStoreI with
  | unchanged => simp only [moveI, movedI, h]
  | plusX => simp only [moveI, movedI, h, trim_add_toNat, hx]
  | plusXPlus1 => simp only [moveI, movedI, h, BitVec.add_assoc, trim_add_toNat, hx1, Nat.add_assoc]

theorem vreg_ofNat_toNat (s : State) (k : Nib) : s.vreg (BitVec.ofNat 4 k.toNat) = s.vreg k := by
  rw [BitVec.ofNat_toNat, BitVec.setWidth_eq]

/-- A claim about the registers up to `V[x]`, by number. -/
theorem forall_nib_le_iff {x : Nib} {P : Nat → Prop} : (∀ k : Nib, k ≤ x → P k.toNat) ↔ ∀ j ≤ x.toNat, P j := by
  refine ⟨fun h j hj => ?_, fun h k hk => h k.toNat hk⟩
  have hnat : (BitVec.ofNat 4 j).toNat = j := Nat.mod_eq_of_lt (lt_of_le_of_lt hj x.isLt)
  have hle : BitVec.ofNat 4 j ≤ x := by rwa [BitVec.le_def, hnat]
  exact hnat ▸ h _ hle

/-- Settles O31: the stores are a list of writes at addresses that stay apart, and then `I8` moves. -/
theorem chip8StoreWritesRegisters : Obligations.Chip8StoreWritesRegisters := by
  intro s x
  have he := moveI_storeRegs_eq x x.toNat (fetched8 s)
  have hframe := C8Frame.storeRegs x x.toNat (fetched8 s)
  have hmoved : movedI (storeRegs x.toNat (fetched8 s)) x = movedI s x := by rw [storeRegs_eq]; rfl
  rw [he] at hframe
  refine ⟨_, congrArg Host.Outcome.next he, ran8_of_c8Frame hframe rfl, nextOpcode_of_pc8 rfl, ⟨rfl, rfl⟩, rfl, rfl,
    (moveI_i8_toNat x _).trans hmoved, fun k hk => ?_, fun a ha => ?_, fun h => ?_, fun h => ?_⟩
  · exact (storeRegs_read_index (fetched8 s) hk x.isLt).trans (vreg_ofNat_toNat s k)
  · exact storeRegs_read_other (fetched8 s) (forall_nib_le_iff.1 ha)
  · obtain ⟨k, hk, hzero⟩ := h
    exact (storeRegs_pad _ (fetched8 s)).trans (if_pos ⟨k.toNat, hk, hzero⟩)
  · refine (storeRegs_pad _ (fetched8 s)).trans (if_neg ?_)
    rintro ⟨j, hj, hzero⟩
    exact (forall_nib_le_iff (P := fun j => indexAt (fetched8 s) j ≠ 0)).1 h j hj hzero

/-- Settles O32: each load takes the byte that stood there before, and then `I8` moves. -/
theorem chip8LoadReadsRegisters : Obligations.Chip8LoadReadsRegisters := by
  intro s x
  have he := moveI_loadRegs_eq x x.toNat (fetched8 s)
  have hframe := C8Frame.loadRegs x x.toNat (fetched8 s)
  have hmoved : movedI (loadRegs x.toNat (fetched8 s)) x = movedI s x := by rw [loadRegs_eq]; rfl
  rw [he] at hframe
  exact ⟨_, congrArg Host.Outcome.next he, ran8_of_c8Frame hframe rfl, nextOpcode_of_pc8 rfl, ⟨rfl, rfl⟩, rfl,
    ⟨rfl, fun _ => rfl⟩, (moveI_i8_toNat x _).trans hmoved, vreg_loadRegs (fetched8 s) x.isLt⟩

/-- Settles O33: Fx55 leaves `V[k]` where Fx65 reads it. -/
theorem storeThenLoadRestoresRegisters : Obligations.StoreThenLoadRestoresRegisters := by
  intro s t u x hstore v' hload k hk
  obtain ⟨t', hstore', hran, -, -, -, -, -, hstored, -⟩ := chip8StoreWritesRegisters s x
  obtain ⟨u', hload', -, -, -, -, -, -, hloaded⟩ := chip8LoadReadsRegisters { t with v := v', i8 := s.i8 } x
  obtain rfl : t' = t := by rw [hstore'] at hstore; cases hstore; rfl
  obtain rfl : u' = u := by rw [hload'] at hload; cases hload; rfl
  have hcfg : t'.cfg = s.cfg := hran.block.cfg
  rw [hloaded, if_pos hk, ← hstored k hk, ← hcfg]

end Sys2Proof.Slice0
end

section
/-! Call and return (48_dispatch R221 to R224), the key wait (R228), the parameter handlers (R220, R229). -/

namespace Sys2Proof.Machine

theorem keyWait_none (x : Nib) (s : State) :
    keyWait x none s = { s with pc8 := trim s.cfg.space (s.pc8 - 2), cpuState := .waiting } := rfl

theorem keyWait_some (x k : Nib) (s : State) :
    keyWait x (some k) s = { s with v := (s.setV x (k.zeroExtend 8)).v, cpuState := .normal } := rfl

theorem keyWait_draws (x : Nib) (k : Option Nib) (s : State) : (keyWait x k s).draws = s.draws := by cases k <;> rfl

/-- The key wait counts the host's answer as a draw. -/
theorem C8Frame.keyWait_tookDraw (x : Nib) (k : Option Nib) (s : State) :
    C8Frame s (Machine.keyWait x k s.tookDraw) := by
  have h := C8Frame.keyWait x k s.tookDraw
  have hmem : (Machine.keyWait x k s.tookDraw).mem = s.mem ∧ (Machine.keyWait x k s.tookDraw).pad = s.pad := by
    cases k <;> exact ⟨rfl, rfl⟩
  exact ⟨h.rest, ⟨[], hmem⟩, h.widths, h.depth, h.cpu⟩

/-! ## The parameter handlers -/

/-- A parameter handler's answer is committed, or its fault entered. -/
theorem runHandler_cases (h : Handler) (op : Word) (s : State) :
    ((Config.handler h s.draws op (handlerView (fetched8 s))).raised = none ∧
      runHandler h op s =
        .next (applyEffect (Config.handler h s.draws op (handlerView (fetched8 s))) (fetched8 s))) ∨
    ∃ f, (Config.handler h s.draws op (handlerView (fetched8 s))).raised = some f ∧
      runHandler h op s = .next (enterFault f s) := by
  cases hraised : (Config.handler h s.draws op (handlerView (fetched8 s))).raised with
  | none => exact .inl ⟨rfl, by simp only [runHandler, hraised]⟩
  | some f => exact .inr ⟨f, rfl, by simp only [runHandler, hraised]⟩

theorem applyEffect_read (e : HandlerEffect) (s : State) (a : Nat) :
    (applyEffect e s).mem.read a = Slice0.lastWritten s.cfg.memSize e.writes a (s.mem.read a) :=
  writeAll8_read e.writes _ a

theorem applyEffect_pad (e : HandlerEffect) (s : State) : (applyEffect e s).pad =
    if ∃ w ∈ e.writes, w.1 % s.cfg.memSize = 0 then (applyEffect e s).mem.read 0 else s.pad :=
  writeAll8_pad e.writes _

/-- What a parameter handler's answer writes beside memory, reduced to the widths and ranges. -/
theorem applyEffect_eq (e : HandlerEffect) (s : State) : applyEffect e s =
    { s with
      v := e.v, i8 := trim s.cfg.iw e.i8, pc8 := trim s.cfg.space e.pc8, stack := e.stack.map (trim s.cfg.space),
      sp8 := boundDepth s.cfg.stackPolicy e.sp8, dt := e.dt, st := e.st, cycles8 := e.cycles8, frames8 := e.frames8,
      clears8 := e.clears8, execMode := e.execMode, cpuState := if e.waiting then .waiting else .normal,
      draws := s.draws + 1, mem := (applyEffect e s).mem, pad := (applyEffect e s).pad } :=
  writeAll8_eq e.writes _

end Sys2Proof.Machine

namespace Sys2Proof.Slice0

open Sys2Proof.Machine

/-! ## The return stack -/

section
variable {s : State}

/-- A call whose push is not refused: the address after the call stands in the slot the depth selects. -/
theorem gives_call {nnn : BitVec 12} {slot depth : Nat} (hslot : slot = s.sp8 % 16)
    (h : push (fetched8 s).pc8 (fetched8 s) =
      .ok { (fetched8 s).setStack (fetched8 s).sp8 (fetched8 s).pc8 with sp8 := depth }) :
    Gives (.c8Call nnn) s (fun t => Ran8 0 s t ∧ t.pc8.toNat = nnn.toNat ∧ t.sp8 = depth ∧ t.v = s.v ∧
      t.i8 = s.i8 ∧ t.cpuState = s.cpuState ∧ MemSame s t ∧
      (t.stackAt slot).toNat = (s.pc8.toNat + 2) % 2 ^ s.cfg.space.bits ∧
      ∀ k, k < 16 → k ≠ slot → t.stackAt k = s.stackAt k) := by
  have hcall := callTo_ok nnn h
  have hnnn : (nnn.zeroExtend 24 : Addr8).toNat = nnn.toNat := BitVec.toNat_setWidth_of_le (by decide)
  have hstack (k : Nat) := stackAt_setStack (fetched8 s) (fetched8 s).sp8 k (fetched8 s).pc8
  refine ⟨_, handlerStep_ok hcall, ran8_of_c8Frame (C8Frame.callTo hcall) rfl, hnnn, rfl, rfl, rfl, rfl,
    ⟨rfl, fun _ => rfl⟩, ?_, fun k hk hne => ?_⟩
  · have hpushed := (hstack slot).trans (if_pos (by rw [hslot, Nat.mod_mod]; rfl))
    exact (congrArg BitVec.toNat hpushed).trans (trim_add_toNat _ _ _)
  · exact (hstack k).trans (if_neg (by rw [Nat.mod_eq_of_lt hk]; exact hslot ▸ hne))

/-- A return whose pop is not refused: `PC8` takes the entry at the new depth. -/
theorem gives_return {depth : Nat} (h : pop (fetched8 s) = .ok ((fetched8 s).stackAt depth, depth)) :
    Gives .c8Return s (fun t => Ran8 0 s t ∧ t.pc8 = s.stackAt depth ∧ t.sp8 = depth ∧ t.stack = s.stack ∧
      t.v = s.v ∧ t.i8 = s.i8 ∧ t.cpuState = s.cpuState ∧ MemSame s t) := by
  have hreturn := returnFromStack_ok h
  exact ⟨_, handlerStep_ok hreturn, ran8_of_c8Frame (C8Frame.returnFromStack hreturn) rfl, rfl, rfl, rfl, rfl, rfl, rfl,
    ⟨rfl, fun _ => rfl⟩⟩

end

/-- Settles O34, by the three answers of a push (`push_cases`); the fetch keeps the policy and the depth. -/
theorem callPushesReturnAddress : Obligations.CallPushesReturnAddress := by
  intro s nnn
  rcases push_cases (fetched8 s).pc8 (fetched8 s) with ⟨hpolicy, hfull, e⟩ | ⟨hpolicy, hroom, e⟩ | ⟨hpolicy, e⟩
  · exact ⟨fun _ hroom => absurd hroom hfull.not_gt, fun _ _ => handlerStep_error (callTo_error nnn e),
      fun hcyclic => absurd (hpolicy.symm.trans hcyclic) nofun⟩
  · exact ⟨fun _ hlt => gives_call (Nat.mod_eq_of_lt hlt).symm e, fun _ hfull => absurd hfull hroom.ne,
      fun hcyclic => absurd (hpolicy.symm.trans hcyclic) nofun⟩
  · exact ⟨fun herror => absurd (hpolicy.symm.trans herror) nofun,
      fun herror => absurd (hpolicy.symm.trans herror) nofun, fun _ => gives_call rfl e⟩

/-- Settles O35, by the three answers of a pop (`pop_cases`). -/
theorem returnPopsReturnAddress : Obligations.ReturnPopsReturnAddress := by
  intro s
  rcases pop_cases (fetched8 s) with ⟨hpolicy, hempty, e⟩ | ⟨hpolicy, hsome, e⟩ | ⟨hpolicy, e⟩
  · exact ⟨fun _ hsome => absurd hempty (Nat.one_le_iff_ne_zero.1 hsome),
      fun _ _ => handlerStep_error (returnFromStack_error e),
      fun hcyclic => absurd (hpolicy.symm.trans hcyclic) nofun⟩
  · exact ⟨fun _ _ _ => gives_return e, fun _ hempty => absurd hempty hsome,
      fun hcyclic => absurd (hpolicy.symm.trans hcyclic) nofun⟩
  · refine ⟨fun herror => absurd (hpolicy.symm.trans herror) nofun,
      fun herror => absurd (hpolicy.symm.trans herror) nofun, fun _ hlt => ?_⟩
    have hdepth : (s.sp8 + 15) % 16 = if s.sp8 = 0 then 15 else s.sp8 - 1 := by split_ifs <;> omega
    obtain ⟨t, hexec, hran, hpc8, hsp8, hrest⟩ := gives_return e
    exact ⟨t, hexec, hran, hsp8.trans hdepth, hsp8.symm ▸ hpc8, hrest⟩

/-- Settles O36, by the host's answer; without a key the rewind undoes the fetch's advance. -/
theorem keyWaitPolls : Obligations.KeyWaitPolls := by
  intro s x
  have hexec : exec (.c8KeyWait x) s =
      .next (keyWait x (Config.getKeyPressed s.draws) (fetched8 s).tookDraw) := rfl
  have hframe := C8Frame.keyWait_tookDraw x (Config.getKeyPressed s.draws) (fetched8 s)
  have hran : Ran8 1 s _ := ran8_of_c8Frame hframe (keyWait_draws x _ _)
  generalize Config.getKeyPressed s.draws = answer at hexec hran ⊢
  cases answer with
  | none =>
    rw [keyWait_none] at hexec hran
    exact ⟨_, hexec, hran, ⟨rfl, rfl⟩, rfl, ⟨rfl, fun _ => rfl⟩, trim_sub_trim_add_toNat _ _ _, rfl, rfl⟩
  | some key =>
    rw [keyWait_some] at hexec hran
    refine ⟨_, hexec, hran, ⟨rfl, rfl⟩, rfl, ⟨rfl, fun _ => rfl⟩, nextOpcode_of_pc8 rfl, rfl, fun k => ?_⟩
    have hkey : (key.zeroExtend 8 : Byte).toNat = key.toNat := BitVec.toNat_setWidth_of_le (by decide)
    refine (congrArg BitVec.toNat (vreg_setV (fetched8 s).tookDraw x k _)).trans ?_
    rw [apply_ite BitVec.toNat, hkey]
    rfl

/-! ## What a parameter handler commits -/

theorem commitsHandler_applyEffect {e : HandlerEffect} (s : State) (hraised : e.raised = none) :
    CommitsHandler e s (applyEffect e (fetched8 s)) := by
  have hread := applyEffect_read e (fetched8 s)
  have hpad := applyEffect_pad e (fetched8 s)
  simp only [CommitsHandler, hraised]
  rw [applyEffect_eq]
  exact ⟨⟨rfl, rfl, rfl, rfl, rfl, rfl, ⟨rfl, rfl, rfl, rfl, rfl, rfl⟩, ⟨rfl, rfl, rfl, rfl⟩⟩, rfl,
    ⟨rfl, rfl, rfl, rfl, rfl, rfl, rfl, rfl, rfl⟩, rfl, rfl, trim_toNat _ _, trim_toNat _ _,
    fun k => by rw [Vector.get_map]; exact trim_toNat _ _,
    fun hp => congrArg (boundDepth · e.sp8) hp, fun hp => congrArg (boundDepth · e.sp8) hp, rfl, rfl, rfl, rfl, rfl,
    rfl, rfl, hread, hpad⟩

theorem commitsHandler_enterFault {e : HandlerEffect} {f : FaultInfo} (s : State) (hraised : e.raised = some f) :
    CommitsHandler e s (enterFault f s) := by
  simp only [CommitsHandler, hraised]
  exact ⟨⟨rfl, rfl, rfl, rfl, rfl, rfl, ⟨rfl, rfl, rfl, rfl, rfl, rfl⟩, ⟨rfl, rfl, rfl, rfl⟩⟩, rfl, rfl⟩

theorem runHandler_commits (h : Handler) (op : Word) (s : State) :
    ∃ t, runHandler h op s = .next t ∧
      CommitsHandler (Config.handler h s.draws op (handlerView (fetched8 s))) s t := by
  rcases runHandler_cases h op s with ⟨hraised, e⟩ | ⟨f, hraised, e⟩
  · exact ⟨_, e, commitsHandler_applyEffect s hraised⟩
  · exact ⟨_, e, commitsHandler_enterFault s hraised⟩

/-- Settles O37: Dxyn runs `Handler.draw`, and every parameter handler commits alike (`runHandler_commits`). -/
theorem drawIsAParameterHandler : Obligations.DrawIsAParameterHandler := by
  intro s e
  refine ⟨fun x y n he => ?_, fun k op he => ?_⟩
  · exact he ▸ runHandler_commits .draw (digits 0xD#4 x y n) s
  · exact he ▸ runHandler_commits (.param k) op s

end Sys2Proof.Slice0
end

section
/-! The execution-mode machine and the pauses (48_dispatch R230 to R236), the timer tick (60_exceptions R280), a faulted
machine (R251 to R253). -/

namespace Sys2Proof.Machine

/-- Does an instruction's end pause the machine, breakpoints apart (48_dispatch R231 to R235). -/
theorem modeAfter_execMode (wasReturn : Bool) (s : State) :
    ((modeAfter wasReturn s).execMode = .paused ↔ s.execMode = .paused ∨ s.execMode = .step ∨
      (s.execMode = .stepOver ∧ s.sp8 ≤ s.stepOverDepth) ∨ (s.execMode = .stepOut ∧ wasReturn = true)) := by
  cases h : s.execMode with
  | running => simp [modeAfter, h]
  | paused => simp [modeAfter, h]
  | step => simp [modeAfter, h]
  | stepOver => by_cases hdepth : s.sp8 ≤ s.stepOverDepth <;> simp [modeAfter, h, hdepth]
  | stepOut => cases wasReturn <;> simp [modeAfter, h]

/-- Is there a breakpoint at the new `PC8` (48_dispatch R236). -/
theorem breakCheck_execMode (s : State) :
    (breakCheck s).execMode = .paused ↔ s.execMode = .paused ∨ ∃ b ∈ s.breakpoints, b.addr = s.pc8 := by
  simp only [breakCheck, List.any_eq_true, beq_iff_eq]
  split_ifs with h
  · exact iff_of_true rfl (.inr h)
  · exact (or_iff_left h).symm

/-- `setExecMode` outside `Error` (48_dispatch R230). -/
theorem setExecMode_of_no_error {s : State} (m : ExecMode) (h : s.cpuState ≠ .error) : setExecMode m s =
    { s with execMode := m, stepOverDepth := if m = .stepOver then s.sp8 else s.stepOverDepth } := by
  refine (if_neg h).trans ?_
  cases m <;> rfl

/-- The tick of a machine without a fault (60_exceptions R280). -/
theorem timerTick_of_no_fault {s : State} (h : s.fault = none) : timerTick s =
    { s with
      dt := if s.dt = 0 then s.dt else s.dt - 1, st := if s.st = 0 then s.st else s.st - 1,
      frames8 := s.frames8 + 1 } :=
  if_neg (by simp [h])

/-- A faulted machine pauses in no frame. -/
theorem pauseFrame_of_fault {s : State} (h : s.fault ≠ none) : pauseFrame s = s := by
  simp [pauseFrame, h]

end Sys2Proof.Machine

namespace Sys2Proof.Slice0

open Sys2Proof.Machine

/-- Settles O51: what the instruction's end does to the mode (`modeAfter_execMode`), and then the breakpoint check. -/
theorem executionModeMachine : Obligations.ExecutionModeMachine := by
  intro s wasReturn
  refine ⟨fun m h => setExecMode_of_no_error m h, ?_⟩
  obtain ⟨m, hafter, hm⟩ := afterInstruction_eq wasReturn s
  obtain ⟨m', hmode, -⟩ := modeAfter_eq wasReturn s
  refine ⟨m, hafter, ?_, fun hne => hm.resolve_right hne⟩
  have hbreak := breakCheck_execMode (modeAfter wasReturn s)
  rw [modeAfter_execMode] at hbreak
  have hfields : (breakCheck (modeAfter wasReturn s)).execMode = m := congrArg State.execMode hafter
  rw [hfields, hmode] at hbreak
  simpa only [or_assoc] using hbreak

/-- Settles O50: nothing but a host call moves a held machine. -/
theorem pausedMachineIsFrozen : Obligations.PausedMachineIsFrozen := by
  intro s haction hfault hpaused hphase
  have hheld : held s = true := by
    cases hengine : s.cfg.engine with
    | hardware => simp [held, hpaused, hengine, hphase hengine]
    | fastPath => simp [held, hpaused, hengine]
  simp only [step, machineStep, haction, runStep, hfault, hheld, if_true]

theorem timer_countDown_toNat (b : Byte) : (if b = 0 then b else b - 1).toNat = b.toNat - 1 := by
  split_ifs with h <;> bv_omega

/-- Settles O52: a timer at 0 stays there, as subtraction of natural numbers does. -/
theorem timerTickCountsDown : Obligations.TimerTickCountsDown := by
  intro s hfault
  rw [timerTick_of_no_fault hfault]
  exact ⟨timer_countDown_toNat s.dt, timer_countDown_toNat s.st, rfl, rfl, rfl, rfl,
    ⟨rfl, rfl, rfl, rfl, rfl, rfl, ⟨rfl, rfl, rfl, rfl, rfl, rfl⟩, ⟨rfl, rfl, rfl, rfl⟩⟩,
    ⟨rfl, rfl, rfl, rfl, rfl, rfl, rfl, rfl, rfl⟩, ⟨rfl, rfl, rfl, rfl, rfl, rfl, rfl, rfl, rfl, rfl, rfl, rfl⟩⟩

/-- Settles O47: each part asks for the fault record or for `Error` before it does anything. -/
theorem faultedMachineIsFinal : Obligations.FaultedMachineIsFinal := by
  intro s f m b hfault hcpu
  have hsome : s.fault.isSome = true := by rw [hfault]; rfl
  refine ⟨fun haction => ?_, if_pos hsome, if_pos (.inl hcpu), ?_, fun fuel => if_pos (.inl hcpu)⟩
  · simp only [step, machineStep, haction, runStep, hfault]
  · simp only [List.forall_mem_cons, List.not_mem_nil, false_implies, implies_true, and_true]
    refine ⟨?_, if_pos hsome, if_pos hsome⟩
    have hmode : setExecMode m s = s := if_pos hcpu
    rw [applyAction, hmode, pauseFrame_of_fault (by simp [hfault])]

/-- Settles O48: a CDP1802 instruction that runs keeps the record, and so does a CHIP-8 handler, a parameter handler
included; a fault entry starts from the state the instruction began in. -/
theorem faultUndoesTheInstruction : Obligations.FaultUndoesTheInstruction := by
  intro i s t f hnone hexec hfault
  cases hengine : i.engine with
  | hardware =>
    rcases exec_hardware_cases i hengine s with ⟨u, e, hframe⟩ | ⟨g, e⟩ <;> rw [e] at hexec <;> cases hexec
    · rw [countCycles_fault, hframe.fault, fetched_fault, hnone] at hfault
      cases hfault
    · cases hfault
      rfl
  | fastPath =>
    rcases exec_fastPath_cases i hengine s with ⟨u, e, hframe⟩ | ⟨x, e⟩ | ⟨g, e⟩ <;> rw [e] at hexec <;> cases hexec
    · rw [hframe.fault, fetched8_fault, hnone] at hfault
      cases hfault
    · rw [applyEffect_eq, fetched8_fault, hnone] at hfault
      cases hfault
    · cases hfault
      rfl

end Sys2Proof.Slice0
end

section
/-! The CDP1861's outputs, interrupt entry, the DMA-out cycle and the frame count (60_exceptions R262, R264, R273 to
R277, R281); the re-entry test (48_dispatch R238). -/

namespace Sys2Proof.Machine

/-- Lines 76 to 79 and 204 to 207 (60_exceptions R275). -/
theorem efx_iff (c : Nat) :
    efx c = true ↔ (1064 ≤ c % 3668 ∧ c % 3668 ≤ 1119) ∨ (2856 ≤ c % 3668 ∧ c % 3668 ≤ 2911) := by
  simp only [efx, inEfxLines, Bool.or_eq_true, Bool.and_eq_true, decide_eq_true_eq]
  simp only [videoLine, frameCycle, Config.cyclesPerFrame, Config.cyclesPerLine]
  omega

theorem reg_setReg_add (s : State) (n : Nib) (c : Word) (k : Nib) :
    (s.setReg n (s.reg n + c)).reg k = s.reg k + (if k = n then c else 0) := by
  rw [reg_setReg]
  split_ifs with hk
  · rw [hk]
  · exact (BitVec.add_zero _).symm

/-- A cycle that is shorter than a frame crosses one boundary or none. -/
theorem countFrame_frames8 {s t : State} (hframes : t.frames8 = s.frames8) (hle : s.cycles ≤ t.cycles)
    (hlt : t.cycles ≤ s.cycles + 3) :
    (countFrame s t).frames8 = s.frames8 + (t.cycles / 3668 - s.cycles / 3668) := by
  have hnumber (c : Nat) : frameNumber c = c / 3668 := rfl
  simp only [countFrame, hframes]
  split_ifs with h <;> simp only [hnumber] at h <;> omega

/-- The re-entry test, spelled out (48_dispatch R238). -/
theorem reentered_iff (s t : State) :
    reentered s t = true ↔ t.fault = none ∧ nextCycle s = .instruction ∧ t.pc = 0x001B#16 := by
  simp [reentered, Config.reentryAddr, and_assoc]

theorem executeCdp1802_of_coreStep {s t : State} (h : coreStep s = .next t) :
    executeCdp1802 s = .next (if reentered s t then atReentry t else t, reentered s t) := by
  simp only [executeCdp1802, h]

/-- A `CoreStep` of the backend takes at most three cycles and counts no frame beside the boundary it may cross. -/
theorem coreStep_countFrame {s t : State} (h : coreStep s = .next t) :
    ∃ u, t = countFrame s u ∧ u.frames8 = s.frames8 ∧ s.cycles ≤ u.cycles ∧ u.cycles ≤ s.cycles + 3 := by
  rcases coreStep_cases s with ⟨-, hdma⟩ | ⟨-, hint⟩ | ⟨-, hidle⟩ | ⟨-, ⟨op, u, -, hinstr, hframe⟩ | ⟨f, hfault⟩⟩
  · rw [hdma] at h; cases h
    refine ⟨_, rfl, ?_⟩
    rcases dmaOutCycle_cases s with ⟨v, -, e⟩ | ⟨f, -, e⟩ <;> rw [e]
    · exact ⟨rfl, Nat.le_add_right _ 1, Nat.add_le_add_left (by decide) _⟩
    · exact ⟨rfl, le_rfl, Nat.le_add_right _ 3⟩
  · rw [hint] at h; cases h
    exact ⟨_, rfl, rfl, Nat.le_add_right _ 1, Nat.add_le_add_left (by decide) _⟩
  · rw [hidle] at h; cases h
    exact ⟨_, rfl, rfl, Nat.le_add_right _ 1, Nat.add_le_add_left (by decide) _⟩
  · rw [hinstr] at h; cases h
    have hcycles := countCycles_fetched_cycles hframe
    exact ⟨_, rfl, hframe.frames8, by omega, by split_ifs at hcycles <;> omega⟩
  · rw [hfault] at h; cases h
    exact ⟨_, rfl, rfl, le_rfl, Nat.le_add_right _ 3⟩

end Sys2Proof.Machine

namespace Sys2Proof.Slice0

open Sys2Proof.Machine

/-- Settles O41, line by line of the frame; `EF(1)` samples at the execute cycle. -/
theorem videoOutputsByFrameCycle : Obligations.VideoOutputsByFrameCycle := by
  intro s c
  refine ⟨intReq_iff s c, ?_, efx_iff c, rfl⟩
  rw [← Nat.lt_succ_iff (n := 2911)]
  exact dmaOutReq_iff s c

/-- Settles O42: `countFrame` after `interruptCycle` writes these fields and the frame count, and no other. -/
theorem interruptEntry : Obligations.InterruptEntry := by
  intro s h
  exact ⟨_, coreStep_interrupt h, ⟨joinNibs_toNat s.x s.p, rfl, rfl, rfl, rfl, rfl⟩, rfl, rfl, rfl, rfl, rfl, rfl,
    ⟨rfl, rfl, rfl, rfl⟩, ⟨rfl, fun _ => rfl⟩, ⟨rfl, rfl, rfl, rfl, rfl, rfl, rfl, rfl, rfl⟩,
    ⟨rfl, rfl, rfl, rfl, rfl, rfl, rfl, rfl, rfl, rfl, rfl, rfl⟩⟩

/-- Settles O43, by what the read of the byte at `R[0]` answers; a fault passes no cycle that could end a frame. -/
theorem dmaOutCycleEffect : Obligations.DmaOutCycleEffect := by
  intro s v h
  rw [coreStep_dmaOut h]
  constructor
  · intro hread
    have hcycle : dmaOutCycle s = { (s.setReg 0 (s.reg 0 + 1)).emit (.dmaOut s.cycles (s.reg 0) v) with
        idle := false, cycles := s.cycles + 1 } := by simp only [dmaOutCycle, hread]
    rw [hcycle]
    exact ⟨_, rfl, rfl, rfl, rfl, rfl, rfl, rfl, ⟨rfl, rfl, rfl, rfl, rfl, rfl, rfl, rfl, rfl, rfl, rfl, rfl⟩, rfl, rfl,
      rfl, reg_setReg_add s 0 1, rfl, rfl, rfl, rfl, rfl, rfl, rfl, ⟨rfl, fun _ => rfl⟩,
      ⟨rfl, rfl, rfl, rfl, rfl, rfl, rfl, rfl, rfl⟩⟩
  · intro f hread
    have hcycle : dmaOutCycle s = enterFault f s := by simp only [dmaOutCycle, hread]
    rw [hcycle, countFrame_enterFault]
    rfl

/-- Settles O53: every kind of `CoreStep` leaves the frame count to `countFrame`, and three cycles cross one boundary at
most. -/
theorem backendCountsFrames : Obligations.BackendCountsFrames := by
  intro s t h _ _
  obtain ⟨u, rfl, hframes, hle, hlt⟩ := coreStep_countFrame h
  exact ⟨countFrame_frames8 hframes hle hlt, hlt⟩

/-- Settles O45: the model's test is the statement's condition (`reentered_iff`). -/
theorem reentryTest : Obligations.ReentryTest := by
  intro s t h
  rw [executeCdp1802_of_coreStep h, if_congr (reentered_iff s t).symm rfl rfl]
  cases reentered s t <;> rfl

end Sys2Proof.Slice0
end

section
/-! `ShadowRefresh` under the offered default map (48_dispatch R239, R240, log 16). The entries are natural numbers as
long as the stack page lies inside RAM and `R[2]` not above the stack top. -/

namespace Sys2Proof.Machine

/-! ## Entries that designate a natural number -/

section
variable {s : State} {e : ShadowExpr} {k : Nat}

theorem ramAt_of_lt (s : State) (hk : k < 0x1000) : ramAt s k = s.mem.read k := by
  rw [ramAt, if_pos ⟨Int.natCast_nonneg k, by simp only [Config.ramSize]; omega⟩, Int.toNat_natCast]

theorem shadowByte_of_value (h : shadowValue s e = k) : shadowByte s e = BitVec.ofNat 8 k := by
  rw [shadowByte, h, BitVec.ofInt_natCast]

theorem shadowAddr_of_value (w : AddrWidth) (h : shadowValue s e = k) : (shadowAddr w s e).toNat = k % 2 ^ w.bits := by
  rw [shadowAddr, h, BitVec.ofInt_natCast, trim_toNat, BitVec.toNat_ofNat]
  exact Nat.mod_mod_of_dvd _ (Nat.pow_dvd_pow 2 (by cases w <;> decide))

theorem shadowCount_of_value (h : shadowValue s e = k) : shadowCount s e = k := by
  rw [shadowCount, h, if_pos (Int.natCast_nonneg k), Int.toNat_natCast]

end

/-! ## The entries of the default map -/

/-- The stack page of the default map (48_dispatch R240). -/
def shadowBase : ShadowExpr := (ShadowExpr.reg 2).page

/-- The stack top of the default map. -/
def shadowTop : ShadowExpr := .add shadowBase (.const 0xCF)

/-- The depth of the default map, in entries of two bytes. -/
def shadowDepthEntry : ShadowExpr := .div (.sub shadowTop (.reg 2)) (.const 2)

theorem defaultShadow_v (k : Fin 16) : defaultShadow.v.get k = .ram (.add shadowBase (.const (0xF0 + k.val))) :=
  Vector.getElem_ofFn _

theorem defaultShadow_stack (k : Fin 16) : defaultShadow.stack.get k =
    .ramPair (.sub shadowTop (.const (2 * k.val + 2))) (.sub shadowTop (.const (2 * k.val + 1))) :=
  Vector.getElem_ofFn _

section
variable {s : State} {base : Nat} (hbase : base = (s.reg 2).toNat / 256 * 256)
include hbase

theorem shadowBase_value : shadowValue s shadowBase = base := by
  simp only [shadowBase, ShadowExpr.page, ShadowExpr.low, shadowValue]
  omega

theorem shadowTop_value : shadowValue s shadowTop = (base + 0xCF : Nat) := by
  rw [shadowTop, shadowValue, shadowBase_value hbase, shadowValue]
  omega

theorem shadowDepthEntry_value (htop : (s.reg 2).toNat ≤ base + 0xCF) :
    shadowValue s shadowDepthEntry = ((base + 0xCF - (s.reg 2).toNat) / 2 : Nat) := by
  simp only [shadowDepthEntry, shadowValue, shadowTop_value hbase]
  omega

/-- The byte of RAM a sum with the stack page designates. -/
theorem shadowRam_page_value {k : Nat} (hk : base + k < 0x1000) :
    shadowValue s (.ram (.add shadowBase (.const k))) = (s.mem.read (base + k)).toNat := by
  have hindex : shadowValue s (.add shadowBase (.const k)) = (base + k : Nat) := by
    rw [shadowValue, shadowBase_value hbase, shadowValue]
    omega
  rw [shadowValue, hindex, ramAt_of_lt s hk]

/-- The byte of RAM `k` places under the stack top. -/
theorem shadowRam_top_value {k : Nat} (hk : k ≤ base + 0xCF) (hram : base + 0xCF < 0x1000) :
    shadowValue s (.ram (.sub shadowTop (.const k))) = (s.mem.read (base + 0xCF - k)).toNat := by
  have hindex : shadowValue s (.sub shadowTop (.const k)) = (base + 0xCF - k : Nat) := by
    rw [shadowValue, shadowTop_value hbase, shadowValue]
    omega
  rw [shadowValue, hindex, ramAt_of_lt s (by omega)]

end

/-- A pair of bytes whose values are bytes of RAM. -/
theorem shadowPair_value {s : State} {hi lo : ShadowExpr} {h l : Byte} (hhi : shadowValue s (.ram hi) = h.toNat)
    (hlo : shadowValue s (.ram lo) = l.toNat) :
    shadowValue s (.ramPair hi lo) = (h.toNat * 256 + l.toNat : Nat) := by
  simp only [ShadowExpr.ramPair, shadowValue] at hhi hlo ⊢
  omega

/-! ## The values copied -/

/-- The refresh writes the shadow values and counts a draw, nothing else. -/
theorem shadowRefresh_eq (s : State) : ∃ v i8 pc8 dt st sp8 stack, shadowRefresh s =
    { s with v := v, i8 := i8, pc8 := pc8, dt := dt, st := st, sp8 := sp8, stack := stack, draws := s.draws + 1 } :=
  ⟨_, _, _, _, _, _, _, rfl⟩

theorem vreg_shadowRefresh (s : State) (k : Nib) :
    (shadowRefresh s).vreg k = shadowByte s (s.cfg.shadow.v.get ⟨k.toNat, k.isLt⟩) :=
  Vector.getElem_ofFn k.isLt

/-- A stack entry the map designates (48_dispatch R239, log 18). -/
theorem stackAt_shadowRefresh {s : State} {k : Nat} (hk : k < 16) (hlt : k < shadowCount s s.cfg.shadow.stackCount) :
    (shadowRefresh s).stackAt k = shadowAddr s.cfg.space s (s.cfg.shadow.stack.get ⟨k, hk⟩) := by
  have hmod : (⟨k % 16, Nat.mod_lt k (by decide)⟩ : Fin 16) = ⟨k, hk⟩ := Fin.ext (Nat.mod_eq_of_lt hk)
  rw [State.stackAt, hmod]
  exact (Vector.getElem_ofFn hk).trans (if_pos hlt)

end Sys2Proof.Machine

namespace Sys2Proof.Slice0

open Sys2Proof.Machine

theorem memSame_shadowRefresh (s : State) : MemSame s (shadowRefresh s) := by
  obtain ⟨_, _, _, _, _, _, _, e⟩ := shadowRefresh_eq s
  rw [e]
  exact ⟨rfl, fun _ => rfl⟩

theorem cpuSame_shadowRefresh (s : State) : CpuSame s (shadowRefresh s) := by
  obtain ⟨_, _, _, _, _, _, _, e⟩ := shadowRefresh_eq s
  rw [e]
  exact ⟨rfl, rfl, rfl, rfl, rfl, rfl, ⟨rfl, rfl, rfl, rfl, rfl, rfl⟩, ⟨rfl, rfl, rfl, rfl⟩⟩

/-- Settles O46: under the hypotheses each entry of the default map designates a natural number, and the bytes of RAM it
reads are there. -/
theorem shadowRefreshUnderTheDefaultMap : Obligations.ShadowRefreshUnderTheDefaultMap := by
  intro s base hmap hbase hram htop
  have hpage : base + 0xFF < 0x1000 := by omega
  have hdepth := shadowCount_of_value (shadowDepthEntry_value hbase htop)
  have hr8 : (s.reg 8).toNat < 2 ^ 16 := (s.reg 8).isLt
  have hsp8 : (shadowRefresh s).sp8 = (base + 0xCF - (s.reg 2).toNat) / 2 := by
    simp only [shadowRefresh, hmap]
    exact hdepth
  refine ⟨fun k => ?v, ?i8, ?pc8, ?dt, ?st, hsp8, fun k hk hlt => ?stack, memSame_shadowRefresh s,
    cpuSame_shadowRefresh s⟩
  case v =>
    have hk : k.toNat < 2 ^ 4 := k.isLt
    rw [vreg_shadowRefresh, hmap, defaultShadow_v, shadowByte_of_value (shadowRam_page_value hbase (by omega)),
      BitVec.ofNat_toNat, BitVec.setWidth_eq, Nat.add_assoc]
  case i8 =>
    simp only [shadowRefresh, hmap]
    exact shadowAddr_of_value s.cfg.iw rfl
  case pc8 =>
    simp only [shadowRefresh, hmap]
    exact shadowAddr_of_value s.cfg.space rfl
  case dt =>
    simp only [shadowRefresh, hmap]
    have hdt : shadowValue s defaultShadow.dt = ((s.reg 8).toNat / 256 : Nat) := rfl
    rw [shadowByte_of_value hdt, BitVec.toNat_ofNat]
    omega
  case st =>
    simp only [shadowRefresh, hmap]
    have hst : shadowValue s defaultShadow.st = ((s.reg 8).toNat % 256 : Nat) := rfl
    rw [shadowByte_of_value hst, BitVec.toNat_ofNat, Nat.mod_mod]
  case stack =>
    have hcount : k < shadowCount s s.cfg.shadow.stackCount := by
      rw [hmap]
      exact (hsp8 ▸ hlt).trans_eq hdepth.symm
    have hhi : 2 * k + 2 ≤ base + 0xCF := by omega
    have hpair := shadowPair_value (shadowRam_top_value hbase hhi (by omega))
      (shadowRam_top_value hbase (k := 2 * k + 1) (by omega) (by omega))
    rw [stackAt_shadowRefresh hk hcount, hmap, defaultShadow_stack, shadowAddr_of_value s.cfg.space hpair,
      Nat.sub_add_eq, Nat.sub_add_eq]

end Sys2Proof.Slice0
end

section
/-! The steps of the fast path: the beginning of a frame, an instruction of it, its tick, a pause (48_dispatch R218,
R219, R230, R242). -/

namespace Sys2Proof.Machine

/-! ## The handler of an opcode -/

/-- A handler that is no parameter runs through its instruction. -/
theorem dispatchOpcode_of_ne_param {op : Word} {s : State} (h : ∀ k, handlerAt s.cfg.table op ≠ .param k) :
    dispatchOpcode op s = exec ((handlerAt s.cfg.table op).instr op) s := by
  unfold dispatchOpcode
  split
  · next k hk => exact absurd hk (h k)
  · rfl

theorem handlerAt_sourceFamilies_ne_param (op : Word) (k : Nat) : handlerAt sourceFamilies op ≠ .param k := by
  rcases handlerAt_cases sourceFamilies op with ⟨c, hmem, -, h⟩ | ⟨-, h⟩ <;> rw [h]
  · have hall : ∀ c ∈ sourceFamilies, c.handler ≠ .param k := by simp [sourceFamilies]
    exact hall c hmem
  · nofun

/-- With the table of the source's families the fast path runs the decoded instruction. -/
theorem dispatchOpcode_of_sourceFamilies {op : Word} {s : State} (h : s.cfg.table = sourceFamilies) :
    dispatchOpcode op s = exec (decodeOpcode op) s := by
  rw [dispatchOpcode_of_ne_param (h ▸ handlerAt_sourceFamilies_ne_param op), h, decodeOpcode]

/-! ## One step -/

section
variable {s : State} (haction : takeAction s = none) (hfault : s.fault = none) (hengine : s.cfg.engine = .fastPath)
  (hheld : held s = false)
include haction hfault hengine hheld

/-- Without a host call, a fault or a hold, the step of a fast-path machine is that of its frame. -/
theorem step_fastPath : step s = fastPathStep s := by
  simp only [step, machineStep, haction, runStep, hfault, hheld, hengine, Bool.false_eq_true, if_false]

/-- An instruction of the frame: the opcode's handler, the mode and breakpoint checks, the countdown. -/
theorem step_instruction {t : State} {left : Nat} (hleft : s.frameLeft = some (left + 1))
    (hdispatch : dispatchOpcode (fetchOpcode s) s = .next t) :
    step s = .next (pauseFrame (countDown left (afterFastStep (fetchOpcode s) t))) := by
  have hruns : ¬ (s.cpuState = .error ∨ s.execMode = .paused) := fun h => by
    have hheld' : held s = true := by rcases h with h | h <;> simp [held, hengine, h]
    rw [hheld] at hheld'
    cases hheld'
  rw [step_fastPath haction hfault hengine hheld]
  simp only [fastPathStep, hleft, tick8, if_neg hruns, fastStep, hdispatch, mapNext, afterTick8]

end

/-- A frame begins with `IPF` instructions, or with a free number of them. -/
theorem beginFrame_ipf (s : State) : ∃ n d, beginFrame s = { s with frameLeft := some n, draws := d } ∧
    ∀ ipf, s.cfg.ipf = some ipf → n = ipf.val ∧ 0 < n ∧ d = s.draws := by
  cases h : s.cfg.ipf with
  | some k =>
    refine ⟨k.val, s.draws, by simp only [beginFrame, h], fun ipf hipf => ?_⟩
    obtain rfl := Option.some.inj hipf
    exact ⟨rfl, k.property, rfl⟩
  | none => exact ⟨_, _, by simp only [beginFrame, h]; rfl, nofun⟩

/-- What follows an instruction that did not fault: the countdown, or at a pause the end of the frame. -/
theorem pauseFrame_countDown {t : State} (left : Nat) (hfault : t.fault = none) (hengine : t.cfg.engine = .fastPath) :
    pauseFrame (countDown left t) =
      if t.execMode = .paused
      then { (if t.cfg.tickOnPause then timerTick t else t) with frameLeft := none }
      else { t with frameLeft := some left } := by
  have hcount : countDown left t = { t with frameLeft := some left } := by simp [countDown, hfault]
  rw [hcount, pauseFrame]
  by_cases hpaused : t.execMode = .paused
  · rw [if_pos (by simp [hfault, hengine, hpaused]), if_pos hpaused]
    cases htick : t.cfg.tickOnPause
    · rfl
    · rw [if_pos rfl, if_pos rfl, endFrame, timerTick_of_no_fault hfault, timerTick_of_no_fault (by exact hfault)]
  · rw [if_neg (by simp [hpaused]), if_neg hpaused]

end Sys2Proof.Machine

namespace Sys2Proof.Slice0

open Sys2Proof.Machine

/-- Settles O39: the step is that of the frame (`fastPathStep`), clause by clause of its countdown. -/
theorem fastPathStepRunsTheDecodedOpcode : Obligations.FastPathStepRunsTheDecodedOpcode := by
  intro s haction hfault hengine hheld
  refine ⟨fun t left op hop hleft hdispatch => ?handler, fun t left i rest htable hleft hdecode hexec => ?decoded,
    fun hleft => ?tick, fun hleft => ?begin, fun left t => pauseFrame_countDown left⟩
  case handler =>
    obtain rfl : op = fetchOpcode s := hop
    exact step_instruction haction hfault hengine hheld hleft hdispatch
  case decoded =>
    cases hdecode
    exact step_instruction haction hfault hengine hheld hleft ((dispatchOpcode_of_sourceFamilies htable).trans hexec)
  case tick =>
    rw [step_fastPath haction hfault hengine hheld]
    simp only [fastPathStep, hleft, endFrame]
  case begin =>
    obtain ⟨n, d, e, hipf⟩ := beginFrame_ipf s
    refine ⟨n, d, ?_, hipf⟩
    rw [step_fastPath haction hfault hengine hheld, ← e]
    simp only [fastPathStep, hleft]

end Sys2Proof.Slice0
end

section
/-! `reset()` (70_reset R301 to R306) and the fast-forward (R307). -/

namespace Sys2Proof.Machine

/-- `R[k]` after `reset()`: `R[0]` is 0, and without the boot latch `R[1].1` is 0x0F (70_reset R301, R303). -/
def resetReg (s : State) (k : Nib) : Word :=
  if k = 0 then 0
  else if k = 1 ∧ s.cfg.hasBootLatch = false then joinBytes 0x0F#8 (loByte (s.reg 1))
  else s.reg k

theorem reg_resetCpu (s : State) (k : Nib) : (resetCpu s).reg k = resetReg s k := by
  unfold resetReg
  have hzero : (s.setReg 0 0).reg k = if k = 0 then 0 else s.reg k := reg_setReg s 0 k 0
  cases hlatch : s.cfg.hasBootLatch with
  | true =>
    have hcpu : (resetCpu s).r = (s.setReg 0 0).r := by
      simp only [resetCpu, setReg_cfg, hlatch, if_true]
    simp only [reg_of_r hcpu, hzero, Bool.true_eq_false, and_false, if_false]
  | false =>
    have hone : (s.setReg 0 0).reg 1 = s.reg 1 := reg_setReg s 0 1 0
    have hcpu : (resetCpu s).r = ((s.setReg 0 0).setReg 1 (joinBytes 0x0F#8 (loByte (s.reg 1)))).r := by
      rw [← hone]
      simp only [resetCpu, setReg_cfg, hlatch, Bool.false_eq_true, if_false]
      rfl
    rw [reg_of_r hcpu, reg_setReg, hzero]
    by_cases hk : k = 1
    · rw [if_pos hk, hk, if_neg (by decide), if_pos ⟨rfl, rfl⟩]
    · simp only [hk, if_false, false_and]

theorem reg_hostReset (s : State) (k : Nib) : (hostReset s).reg k = resetReg s k := reg_resetCpu s k

/-- What `reset()` writes beside the scratchpad, and with it all that it keeps (70_reset R301 to R306). -/
theorem hostReset_eq (s : State) : ∃ r m b p, hostReset s =
    { s with
      r := r, i := 0, n := 0, q := false, ie := true, x := 0, p := 0, idle := false, displayEnabled := false,
      cycles := 0, bootLatch := s.cfg.hasBootLatch, fault := none, mem := m, pad := b, events := [], v := Vector.replicate 16 0,
      pc8 := s.cfg.startAddr, i8 := 0, sp8 := 0, dt := 0, st := 0, cycles8 := 0, frames8 := 0, clears8 := 0,
      cpuState := .normal, execMode := .paused, stepOverDepth := 0, phase := p, inTick := false, frameLeft := none,
      draws := s.draws + 1 } := by
  obtain ⟨r, e⟩ := resetCpu_eq s
  rw [hostReset, e]
  exact ⟨r, _, _, _, rfl⟩

/-- The fast-forward runs whatever the mode. -/
theorem held_of_fastForward {s : State} (hengine : s.cfg.engine = .hardware) (hphase : s.phase = .fastForward) :
    held s = false := by
  simp [held, hengine, hphase]

/-- The stop test of a fast-forward that runs (70_reset R307). -/
theorem afterExecute_fastForward {s t : State} {hit : Bool} (hphase : s.phase = .fastForward) :
    afterExecute s t hit =
      if t.fault ≠ none ∨ (hit = true ∧ t.pc8 = t.cfg.startAddr) then finishFastForward t else t := by
  by_cases hfault : t.fault = none
  · cases hit <;> simp [afterExecute, hphase, hfault]
  · simp [afterExecute, hphase, hfault]

theorem vreg_of_zero {s : State} (h : s.v = Vector.replicate 16 0) (k : Nib) : s.vreg k = 0 := by
  simp [State.vreg, h]

end Sys2Proof.Machine

namespace Sys2Proof.Slice0

open Sys2Proof.Machine

/-- Settles O54: the fields `reset()` writes (`hostReset_eq`, `reg_resetCpu`), and the two forms of the backend's
fast-forward. -/
theorem resetValues : Obligations.ResetValues := by
  intro s
  refine ⟨?reset, fun haction hfault hengine hphase => ?fastForward⟩
  case reset =>
    have hreg := reg_hostReset s
    obtain ⟨r, m, b, p, e⟩ := hostReset_eq s
    rw [e] at hreg ⊢
    refine ⟨rfl, rfl, rfl, rfl, rfl, rfl, (hreg 0).trans (if_pos rfl), rfl, fun k hk hlatch => ?_,
      fun hlatch => ?_, rfl, rfl, rfl, rfl, rfl, rfl, rfl, rfl, fun k => vreg_of_zero rfl k, rfl, rfl, rfl, rfl, rfl, rfl, rfl, rfl, rfl, rfl, rfl⟩
    · have hkept : ¬ (k = 1 ∧ s.cfg.hasBootLatch = false) := fun ⟨hone, habsent⟩ =>
        hlatch.elim (· hone) fun hpresent => by simp [habsent] at hpresent
      rw [hreg, resetReg, if_neg hk, if_neg hkept]
    · rw [hreg, resetReg, if_neg (by decide), if_pos ⟨rfl, hlatch⟩, joinBytes_toNat, loByte_toNat]
      rfl
  case fastForward =>
    rw [step_hardware haction hfault hengine (held_of_fastForward hengine hphase), backendStep]
    refine ⟨fun hpost => ?_, fun hrun t hit hexec => ?_⟩
    · obtain ⟨hpc, hpc8, hv, hcpu, hcycles8, hframes8, hready, hcfg, hkept, hmode, hmem, hpad⟩ := readyState_post s
      exact ⟨_, if_pos ((takesPostCondition_iff s).2 ⟨hphase, hpost⟩), hpc, hpc8, vreg_of_zero hv, hcpu, hcycles8,
        hframes8, hready, hkept.trans hfault, hmode, rfl, hcfg, hpad, fun a => by rw [hmem]⟩
    · refine ⟨afterExecute s t hit, ?_, fun hstop => ?_, fun hnone hgoes => ?_⟩
      · rw [takesPostCondition_eq_false (.inr hrun), hexec]
        rfl
      · exact (afterExecute_fastForward hphase).trans (if_pos hstop)
      · exact (afterExecute_fastForward hphase).trans (if_neg (not_or.2 ⟨not_not.2 hnone, hgoes⟩))

end Sys2Proof.Slice0
end
